-- ==== Sys2Proof/Config.lean ====
section
/-! DEFINITION. Every parameter of 00_scope.md R6 under the spec's name, and the one free value of the model: the contents
of `BUF` at power-on. Word.lean ties the types of words to the widths
named here. -/

namespace Sys2Proof.Config

/-- `BUF_SIZE`: bytes in the sector buffer. -/
abbrev bufSize : Nat := 512

/-- `SLOT_SIZE`: bytes in one partition descriptor. -/
abbrev slotSize : Nat := 12

/-- `NUM_MAX`: the largest slot number. -/
abbrev numMax : Nat := 11

/-- `SECTOR_SHIFT`: a sector count times 2^9 is bytes. -/
abbrev sectorShift : Nat := 9

/-- `CMD_WIDTH`: bits in a command word. -/
abbrev cmdWidth : Nat := 64

/-- `RES_WIDTH`: bits in `RES`. -/
abbrev resWidth : Nat := 32

/-- `BYTES_WIDTH`: bits in `PSTART`, `PLEN` and `POWNER`. -/
abbrev bytesWidth : Nat := 64

/-- `SUM_MOD`: the modulus of the checksum. -/
abbrev sumMod : Nat := 0x10000

/-- `STR_MAX`: the largest `len` GETSTR accepts, and the number of bytes in `SB`. -/
abbrev strMax : Nat := 16

/-- The values a 10-bit field `off` or `aux` can hold are those below this (30_encoding.md R91, R93). -/
abbrev fieldLimit : Nat := 1024

/-- `FLAG_RSVD_MASK`: flag bits 1 to 6 must be zero for validity. -/
def flagRsvdMask : BitVec 8 := 0x7E

/-- `FLAG_ACTIVE_BIT`. -/
abbrev flagActiveBit : Nat := 0

/-- `FLAG_BOOT_BIT`. -/
abbrev flagBootBit : Nat := 7

/-- `TAG_GEM`, "GEM" (44_punpk.md R191). -/
def tagGem : BitVec 24 := 0x47454D

/-- `TAG_BGM`, "BGM" (44_punpk.md R191). -/
def tagBgm : BitVec 24 := 0x42474D

/-- `TAG_XGM`, "XGM" (44_punpk.md R191). -/
def tagXgm : BitVec 24 := 0x58474D

/-- `EXEC_SUM`: the checksum that marks a sector executable. -/
def execSum : BitVec 16 := 0x1234

/-- `TRIM_SET`: the bytes GETSTR removes from the right end (42_getstr.md R162). The spec fixes this value for this
hardware (D16) and leaves the set open as a parameter (U9): log 8. -/
def trimSet : List (BitVec 8) := [0x20]

/-- FREE VALUE (log 1): the byte that address `a` of `BUF` holds after power-on, before anything has written it
(10_state.md R50, 70_reset_and_hazards.md R241: "it may hold any value", stable across reads). It has no body, so no
proof can know it. DESIGN CHOICE (log 17): one function serves every power-on and every instance, so two power-on states
agree in the model, where the spec says that they may differ (R241). Unsafe for a claim that compares two of them. -/
opaque powerOnByte (a : Nat) : BitVec 8

end Sys2Proof.Config
end

