-- ==== Sys2Proof/Word.lean ====
section
/-! DEFINITION. The words of BAC: the widths of 00_scope.md R6 and R8 to R12 under names. A width in a type is a numeral, so
that the lemmas of bit vectors apply to it as they stand; below each type that R6 gives a parameter for, a theorem says that
the numeral is that parameter of Config.lean. -/

namespace Sys2Proof

/-- One byte of `BUF` (10_state.md R21). -/
abbrev Byte := BitVec 8

/-- A 16-bit value: one word of a checksum, the operand of SETU16 (43_csum.md R170). -/
abbrev Half := BitVec 16

/-- A checksum is a number below `SUM_MOD` (10_state.md R23). -/
theorem half_values : 2 ^ 16 = Config.sumMod := rfl

/-- A 24-bit type tag, first character in bits 23:16 (10_state.md R28). -/
abbrev Tag := BitVec 24

/-- A 32-bit value: four bytes of `BUF`, the field `imm` (30_encoding.md R91). -/
abbrev Word32 := BitVec 32

/-- A command word (30_encoding.md R91). -/
abbrev Command := BitVec 64

theorem command_width : Command = BitVec Config.cmdWidth := rfl

/-- What `RES` holds (10_state.md R22). -/
abbrev Result := BitVec 32

theorem result_width : Result = BitVec Config.resWidth := rfl

/-- A quantity of bytes: what `PSTART`, `PLEN` and `POWNER` hold (10_state.md R30 to R32). -/
abbrev ByteCount := BitVec 64

theorem byteCount_width : ByteCount = BitVec Config.bytesWidth := rfl

/-- The byte order a 16- or 32-bit access names (20_memory.md R61): bit `e` 0 is big, 1 is little. -/
inductive ByteOrder where
  | big
  | little
  deriving DecidableEq, Repr

end Sys2Proof
end

