-- ==== Sys2Proof/Syntax.lean ====
section
/-! DEFINITION. The 14 commands of BAC-1 (30_encoding.md R96), one constructor per row of the opcode table. -/

namespace Sys2Proof

/-- A command. `off`, `len` and `num` are naturals, as 30_encoding.md R93 has them; `val` has the width the command
stores (R97). -/
inductive Instr where
  | getu8 (off : Nat)
  | getu16be (off : Nat)
  | getu16le (off : Nat)
  | getu32be (off : Nat)
  | getu32le (off : Nat)
  | setu8 (off : Nat) (val : Byte)
  | setu16be (off : Nat) (val : Half)
  | setu16le (off : Nat) (val : Half)
  | setu32be (off : Nat) (val : Word32)
  | setu32le (off : Nat) (val : Word32)
  | getstr (off : Nat) (len : Nat)
  | csumbe (off : Nat) (len : Nat)
  | csumle (off : Nat) (len : Nat)
  | punpk (off : Nat) (num : Nat)
  deriving DecidableEq, Repr

end Sys2Proof
end

