-- ==== Sys2Proof/WellFormed.lean ====
section
/-! DEFINITION. Which commands can be encoded: every natural operand fits its 10-bit field (30_encoding.md R91, R93).
An operand that fits but is out of its legal range is well formed and faults (R105, R106). -/

namespace Sys2Proof

/-- `n` fits the field `off` or `aux`. -/
def fitsField (n : Nat) : Bool := decide (n < Config.fieldLimit)

/-- Every operand of the command fits its field. -/
def wellFormed : Instr → Bool
  | .getu8 off => fitsField off
  | .getu16be off => fitsField off
  | .getu16le off => fitsField off
  | .getu32be off => fitsField off
  | .getu32le off => fitsField off
  | .setu8 off _ => fitsField off
  | .setu16be off _ => fitsField off
  | .setu16le off _ => fitsField off
  | .setu32be off _ => fitsField off
  | .setu32le off _ => fitsField off
  | .getstr off len => fitsField off && fitsField len
  | .csumbe off len => fitsField off && fitsField len
  | .csumle off len => fitsField off && fitsField len
  | .punpk off num => fitsField off && fitsField num

end Sys2Proof
end

