-- ==== Sys2Proof/Decode.lean ====
section
/-! DEFINITION. The encoding of 30_encoding.md: the fields of a command word (R91), the opcode map (R94), the
must-be-zero checks (R98 to R102), the decoder, total on every 64-bit word (R104), and the encoder. -/

namespace Sys2Proof

/-- The fields of format C (30_encoding.md R91). -/
structure Fields where
  opc : BitVec 8
  e : BitVec 1
  rsv : BitVec 3
  aux : BitVec 10
  off : BitVec 10
  imm : BitVec 32
  deriving DecidableEq, Repr

/-- Why a word is no command. Each of these is the fault `Illegal` (60_exceptions.md R211); BAC does not record which. -/
inductive Reject where
  /-- `opc` is none of the nine (R98) -/
  | unknownOpcode
  /-- `rsv` is not 000 (R99) -/
  | reservedBits
  /-- `e = 1` on a command without byte order (R100) -/
  | orderBit
  /-- `aux` is not 0 on a GET or SET (R101) -/
  | auxNotZero
  /-- `imm` is not 0 on a GET, GETSTR, CSUM or PUNPK (R102) -/
  | immNotZero
  /-- a SET value does not fit its width (R102) -/
  | valueTooWide
  deriving DecidableEq, Repr

/-- Cut a word into its fields (R91). -/
def cutFields (w : Command) : Fields where
  opc := w.extractLsb' 56 8
  e := w.extractLsb' 55 1
  rsv := w.extractLsb' 52 3
  aux := w.extractLsb' 42 10
  off := w.extractLsb' 32 10
  imm := w.extractLsb' 0 32

/-- Assemble a word from its fields: the formula of R91. -/
def joinFields (c : Fields) : Command :=
  BitVec.ofNat Config.cmdWidth (c.opc.toNat * 2 ^ 56 + c.e.toNat * 2 ^ 55 + c.rsv.toNat * 2 ^ 52 + c.aux.toNat * 2 ^ 42
    + c.off.toNat * 2 ^ 32 + c.imm.toNat)

/-- A command without byte order: `e` must be 0 (R100). -/
def decodeUnordered (c : Fields) (r : Except Reject Instr) : Except Reject Instr :=
  if c.e = 0 then r else .error .orderBit

/-- A command with byte order: `e` chooses it (20_memory.md R61). -/
def decodeOrdered (c : Fields) (be le : Except Reject Instr) : Except Reject Instr :=
  if c.e = 0 then be else le

/-- A GET: `aux` and `imm` must be 0 (R101, R102). -/
def decodeGet (c : Fields) (i : Instr) : Except Reject Instr :=
  if c.aux ≠ 0 then .error .auxNotZero else if c.imm ≠ 0 then .error .immNotZero else .ok i

/-- A SET of `width` bits: `aux` must be 0 and the value must fit (R101, R102). -/
def decodeSet (c : Fields) (width : Nat) (i : Instr) : Except Reject Instr :=
  if c.aux ≠ 0 then .error .auxNotZero
  else if 2 ^ width ≤ c.imm.toNat then .error .valueTooWide else .ok i

/-- A GETSTR, CSUM or PUNPK: `imm` must be 0 (R102). -/
def decodeRange (c : Fields) (i : Instr) : Except Reject Instr :=
  if c.imm ≠ 0 then .error .immNotZero else .ok i

/-- The command of the fields: the opcode map of R94 with `e` (R96). -/
def decodeFields (c : Fields) : Except Reject Instr :=
  let off := c.off.toNat
  let aux := c.aux.toNat
  if c.rsv ≠ 0 then .error .reservedBits
  else match c.opc.toNat with
    | 0x10 => decodeUnordered c (decodeGet c (.getu8 off))
    | 0x11 => decodeOrdered c (decodeGet c (.getu16be off)) (decodeGet c (.getu16le off))
    | 0x12 => decodeOrdered c (decodeGet c (.getu32be off)) (decodeGet c (.getu32le off))
    | 0x20 => decodeUnordered c (decodeSet c 8 (.setu8 off (c.imm.setWidth 8)))
    | 0x21 => decodeOrdered c (decodeSet c 16 (.setu16be off (c.imm.setWidth 16)))
        (decodeSet c 16 (.setu16le off (c.imm.setWidth 16)))
    | 0x22 => decodeOrdered c (decodeSet c 32 (.setu32be off c.imm)) (decodeSet c 32 (.setu32le off c.imm))
    | 0x30 => decodeUnordered c (decodeRange c (.getstr off aux))
    | 0x40 => decodeOrdered c (decodeRange c (.csumbe off aux)) (decodeRange c (.csumle off aux))
    | 0x50 => decodeUnordered c (decodeRange c (.punpk off aux))
    | _ => .error .unknownOpcode

/-- The decoder (30_encoding.md R90 step 1, R104): total, every word is a command or rejected by name. -/
def decode (w : Command) : Except Reject Instr := decodeFields (cutFields w)

/-- The fields of a GET: `aux` and `imm` are 0 (R97). -/
def getFields (opc : BitVec 8) (e : BitVec 1) (off : Nat) : Fields where
  opc := opc
  e := e
  rsv := 0
  aux := 0
  off := BitVec.ofNat 10 off
  imm := 0

/-- The fields of a SET: `aux` is 0, `imm` the value zero-extended (R97). -/
def setFields (opc : BitVec 8) (e : BitVec 1) (off : Nat) (imm : Word32) : Fields where
  opc := opc
  e := e
  rsv := 0
  aux := 0
  off := BitVec.ofNat 10 off
  imm := imm

/-- The fields of a GETSTR, CSUM or PUNPK: `aux` is the second operand, `imm` is 0 (R97). -/
def rangeFields (opc : BitVec 8) (e : BitVec 1) (off aux : Nat) : Fields where
  opc := opc
  e := e
  rsv := 0
  aux := BitVec.ofNat 10 aux
  off := BitVec.ofNat 10 off
  imm := 0

/-- The fields of a command's word (R94, R96, R97). -/
def fieldsOf : Instr → Fields
  | .getu8 off => getFields 0x10 0 off
  | .getu16be off => getFields 0x11 0 off
  | .getu16le off => getFields 0x11 1 off
  | .getu32be off => getFields 0x12 0 off
  | .getu32le off => getFields 0x12 1 off
  | .setu8 off val => setFields 0x20 0 off (val.setWidth 32)
  | .setu16be off val => setFields 0x21 0 off (val.setWidth 32)
  | .setu16le off val => setFields 0x21 1 off (val.setWidth 32)
  | .setu32be off val => setFields 0x22 0 off val
  | .setu32le off val => setFields 0x22 1 off val
  | .getstr off len => rangeFields 0x30 0 off len
  | .csumbe off len => rangeFields 0x40 0 off len
  | .csumle off len => rangeFields 0x40 1 off len
  | .punpk off num => rangeFields 0x50 0 off num

/-- The word of a well-formed command (R91). -/
def encode (i : Instr) : Command := joinFields (fieldsOf i)

/-- The address of slot `n` of a root sector (20_memory.md R77). -/
def slotAddress (n : Nat) : Nat := if n ≤ 3 then 0x1C6 + 12 * n else 0x156 + 12 * (n - 4)

/-- The pseudo-instruction `CSUMSEC` (30_encoding.md R107). -/
def csumsec : Instr := .csumbe 0 512

/-- The pseudo-instruction `PUNPKS n` (30_encoding.md R107). -/
def punpks (n : Nat) : Instr := .punpk (slotAddress n) n

/-- The word the host presents for the low `nbits` bits of `w`, the bits above being 0; a word of more than 64 bits is
no BAC command (R91). -/
def presentedWord (nbits w : Nat) : Command := BitVec.ofNat Config.cmdWidth (w % 2 ^ nbits)

/-- What the decoder reads from an instruction whose bits are `w`, bit 0 the least significant. -/
def decodeTableWord (nbits w : Nat) : Option Instr :=
  if nbits ≤ Config.cmdWidth then
    match decode (presentedWord nbits w) with
    | .ok i => some i
    | .error _ => none
  else none

end Sys2Proof
end

