-- ==== Sys2Proof/Machine/State.lean ====
section
/-! DEFINITION. The whole state: BAC's own (10_state.md R20) and the host's part of it (R29, 00_scope.md R18). -/

namespace Sys2Proof.Machine

/-- The four faults of 60_exceptions.md R211. They are exceptions that BAC takes: a next state, never `Outcome.fault`. -/
inductive Cause where
  | illegal
  | operand
  | oddLen
  | bounds
  deriving DecidableEq, Repr

/-- The fields of `STATUS` (10_state.md R33), each at its own width. Bits 31:10 are hardwired 0 and hold nothing (log 7);
the 32-bit word the host reads is `statusWord`. -/
structure Status where
  /-- `F`, bit 0: BAC is halted -/
  f : Bool
  /-- `FC`, bits 3:1: the fault cause code -/
  fc : BitVec 3
  /-- `X`, bit 4: the executable marker -/
  x : Bool
  /-- `PV`, bit 5: partition valid -/
  pv : Bool
  /-- `PA`, bit 6: partition active -/
  pa : Bool
  /-- `PB`, bit 7: partition bootable -/
  pb : Bool
  /-- `PX`, bit 8: the type is "XGM" -/
  px : Bool
  /-- `PR`, bit 9: partition is real -/
  pr : Bool
  deriving DecidableEq, Repr

/-- The host's moves (00_scope.md R18, 70_reset_and_hazards.md R251). Port addresses have the port's width, so a move
outside the port cannot be written down (10_state.md R45, R47). -/
inductive HostMove where
  /-- `HostIssue(w)` on the command port (10_state.md R48) -/
  | issue (w : Command)
  /-- `HostReadReg(n)` on the register read port (R45) -/
  | readReg (n : BitVec 6)
  /-- `HostReadBuf(a)` on the buffer port (R47) -/
  | readBuf (a : BitVec 9)
  /-- `HostWriteBuf(a, b)` on the buffer port (R47) -/
  | writeBuf (a : BitVec 9) (b : Byte)
  /-- the reset input (70_reset_and_hazards.md R240) -/
  | reset
  deriving DecidableEq, Repr

/-- The machine. `moves`, `k` and `replies` are the host's, everything else is BAC's (10_state.md R20, R29). -/
structure State where
  /-- `BUF`: the bytes written since power-on, (address, byte), addresses strictly rising; a byte not listed reads as
  `Config.powerOnByte` (log 1, log 2) -/
  buf : List Host.Cell
  /-- `RES` (R22) -/
  res : Result
  /-- `SUM` (R23) -/
  sum : Half
  /-- `SLEN` (R25) -/
  slen : BitVec 5
  /-- `SB[0..15]` (R25) -/
  sb : Vector Byte Config.strMax
  /-- `PNUM` (R26) -/
  pnum : BitVec 4
  /-- `PFLAGS` (R27) -/
  pflags : Byte
  /-- `PTYPE` (R28) -/
  ptype : Tag
  /-- `PSTART` (R30) -/
  pstart : ByteCount
  /-- `PLEN` (R31) -/
  plen : ByteCount
  /-- `POWNER` (R32) -/
  powner : ByteCount
  /-- `STATUS` (R33) -/
  status : Status
  /-- `FCMD` (R41) -/
  fcmd : Command
  /-- the host's position in its command list (R29) -/
  k : Nat
  /-- the host's pending moves, oldest first (R18; log 3) -/
  moves : List HostMove
  /-- what the read ports have returned to the host, newest first (R45, R47; log 4) -/
  replies : List (BitVec 64)
  deriving DecidableEq, Repr

/-- Model faults: none. The spec's four faults are taken as next states (60_exceptions.md R212), a command issued while
halted changes nothing (10_state.md R48), and there is no hang (R227), so no step ends in `Outcome.fault`. -/
inductive Fault where
  deriving DecidableEq, Repr

/-- Refusals. The spec needs none (60_exceptions.md R227). -/
inductive Refusal where
  /-- Raised by an arm of `exec` for a command without a meaning; no arm raises it. Safe: it stops. -/
  | notModelled (mnemonic : String)
  deriving DecidableEq, Repr

/-- `STATUS` after reset: 0x00000000 (10_state.md R50). -/
def Status.reset : Status where
  f := false
  fc := 0
  x := false
  pv := false
  pa := false
  pb := false
  px := false
  pr := false

/-- Power-on followed by reset: every register at the value of 10_state.md R50, no byte of `BUF` written, the host at
position 0 (R29) with no move pending (log 3, log 6). -/
def State.reset : State where
  buf := []
  res := 0
  sum := 0
  slen := 0
  sb := Vector.replicate Config.strMax 0
  pnum := 0
  pflags := 0
  ptype := 0
  pstart := 0
  plen := 0
  powner := 0
  status := Status.reset
  fcmd := 0
  k := 0
  moves := []
  replies := []

end Sys2Proof.Machine
end

