-- ==== Sys2Proof/Machine/Ops.lean ====
section
/-! DEFINITION. The named operations over memory and registers, taking a fault, and the one shape every command has
(30_encoding.md R90). -/

namespace Sys2Proof.Machine

/-- The listed byte at `a`, if `a` has been written since power-on. -/
def Memory.lookup : List Host.Cell → Nat → Option Byte
  | [], _ => none
  | c :: m, a => if c.1 = a then some c.2 else Memory.lookup m a

/-- Set the byte at `a`, keeping the addresses strictly rising. -/
def Memory.store : List Host.Cell → Nat → Byte → List Host.Cell
  | [], a, b => [(a, b)]
  | c :: m, a, b =>
    if a < c.1 then (a, b) :: c :: m
    else if c.1 = a then (a, b) :: m
    else c :: Memory.store m a b

/-- The addresses rise strictly from above `lo` on and are addresses of `BUF`. -/
def Memory.risesFrom : Nat → List Host.Cell → Bool
  | _, [] => true
  | lo, c :: m => decide (lo ≤ c.1) && decide (c.1 < Config.bufSize) && Memory.risesFrom (c.1 + 1) m

/-- The canonical form of `BUF` (log 2): addresses strictly rising and below `BUF_SIZE`. -/
def Memory.wf (m : List Host.Cell) : Bool := Memory.risesFrom 0 m

/-- `BUF[a]` (00_scope.md R10). What an unlisted address reads as is decided here, once: the free power-on byte
(70_reset_and_hazards.md R241, log 1). -/
def bufByte (s : State) (a : Nat) : Byte := (Memory.lookup s.buf a).getD (Config.powerOnByte a)

/-- `MemWrite(a, n, L)` (00_scope.md R11): the bytes of `L` at `a`, `a + 1`, …; no other byte and no register. -/
def memWrite (s : State) (a : Nat) : List Byte → State
  | [] => s
  | b :: bs => memWrite { s with buf := Memory.store s.buf a b } (a + 1) bs

/-- `RES <- v` (10_state.md R22). -/
def setRes (v : Result) (s : State) : State := { s with res := v }

/-- `SB` and `SLEN` (10_state.md R25). -/
def setString (sb : Vector Byte Config.strMax) (slen : BitVec 5) (s : State) : State := { s with sb := sb, slen := slen }

/-- `SUM` with the flag `X` (10_state.md R23, R34). -/
def setSum (v : Half) (x : Bool) (s : State) : State := { s with sum := v, status := { s.status with x := x } }

/-- The code a fault puts in `STATUS.FC` (60_exceptions.md R211). -/
def causeCode : Cause → BitVec 3
  | .illegal => 1
  | .operand => 2
  | .oddLen => 3
  | .bounds => 4

/-- TAKING AN EXCEPTION: `raise <Fault>(cmd)` (60_exceptions.md R212). `F`, `FC` and `FCMD` are written and nothing else;
control goes nowhere, BAC halts (R218). -/
def takeFault (c : Cause) (cmd : Command) (s : State) : State :=
  { s with status := { s.status with f := true, fc := causeCode c }, fcmd := cmd }

/-- A command retires: the host's position advances by one (10_state.md R29). -/
def retire (s : State) : State := { s with k := s.k + 1 }

/-- The operand check of R105 (`Operand`, code 2). -/
def operandCheck (v max : Nat) : Option Cause := if v ≤ max then none else some .operand

/-- The length check of 43_csum.md R173 (`OddLen`, code 3). -/
def oddLenCheck (len : Nat) : Option Cause := if len % 2 = 1 then some .oddLen else none

/-- The bound check of 20_memory.md R68 (`Bounds`, code 4): `off + n <= BUF_SIZE` on naturals. -/
def boundsCheck (off n : Nat) : Option Cause := if off + n ≤ Config.bufSize then none else some .bounds

/-- One command on the command port (30_encoding.md R90, 10_state.md R48). While `F = 1` it is not accepted and nothing
changes (log 5); else the first check that fails decides the fault (60_exceptions.md R215); else the effect happens and
the command retires. `cmd` is the command's word, recorded in `FCMD` on a fault (R41). -/
def runCommand (cmd : Command) (check : Option Cause) (effect : State → State) (s : State) :
    Host.Outcome State Fault Refusal :=
  if s.status.f then .next s
  else match check with
    | some c => .next (takeFault c cmd s)
    | none => .next (retire (effect s))

/-- A word that matches no row of 30_encoding.md R96 raises `Illegal` (R98, R104). -/
def execIllegal (cmd : Command) (s : State) : Host.Outcome State Fault Refusal :=
  runCommand cmd (some .illegal) (fun t => t) s

end Sys2Proof.Machine
end

