-- ==== Sys2Proof/Machine/Operands.lean ====
section
/-! DEFINITION. The operand forms: byte order (20_memory.md R62, R63), the trimming of 42_getstr.md R161 and the word sum
of 43_csum.md R171. -/

namespace Sys2Proof.Machine

/-- A 16-bit value of the bytes `b0` (lower address) and `b1` (00_scope.md R12). -/
def join16 : ByteOrder → Byte → Byte → Half
  | .big, b0, b1 => b0 ++ b1
  | .little, b0, b1 => b1 ++ b0

/-- A 32-bit value of four bytes, `b0` at the lowest address (00_scope.md R12). -/
def join32 : ByteOrder → Byte → Byte → Byte → Byte → Word32
  | .big, b0, b1, b2, b3 => b0 ++ b1 ++ b2 ++ b3
  | .little, b0, b1, b2, b3 => b3 ++ b2 ++ b1 ++ b0

/-- The 16-bit value at `a` (20_memory.md R62, R63). -/
def read16 (o : ByteOrder) (s : State) (a : Nat) : Half := join16 o (bufByte s a) (bufByte s (a + 1))

/-- The 32-bit value at `a` (20_memory.md R62, R63). -/
def read32 (o : ByteOrder) (s : State) (a : Nat) : Word32 :=
  join32 o (bufByte s a) (bufByte s (a + 1)) (bufByte s (a + 2)) (bufByte s (a + 3))

/-- The 24-bit type tag at `a`, first character in the most significant byte (44_punpk.md R189). -/
def read24 (s : State) (a : Nat) : Tag := bufByte s a ++ bufByte s (a + 1) ++ bufByte s (a + 2)

/-- The bytes of a 16-bit value in rising address order: `bytes_be`, `bytes_le` of 00_scope.md R12. -/
def bytes16 : ByteOrder → Half → List Byte
  | .big, v => [v.extractLsb' 8 8, v.extractLsb' 0 8]
  | .little, v => [v.extractLsb' 0 8, v.extractLsb' 8 8]

/-- The bytes of a 32-bit value in rising address order (00_scope.md R12). -/
def bytes32 : ByteOrder → Word32 → List Byte
  | .big, v => [v.extractLsb' 24 8, v.extractLsb' 16 8, v.extractLsb' 8 8, v.extractLsb' 0 8]
  | .little, v => [v.extractLsb' 0 8, v.extractLsb' 8 8, v.extractLsb' 16 8, v.extractLsb' 24 8]

/-- `zext_32`: a value zero-extended to the `RES_WIDTH` bits of `RES` (00_scope.md R9). -/
def zeroExtend {n : Nat} (v : BitVec n) : Result := v.setWidth Config.resWidth

/-- The byte is padding: a member of `TRIM_SET` (42_getstr.md R162). -/
def isPadding (b : Byte) : Bool := Config.trimSet.contains b

/-- The length of the `len` bytes at `off` after the bytes that satisfy `pad` are removed from the right end: the loop of
42_getstr.md R161, for any trim set (R162). -/
def trimmedLength (pad : Byte → Bool) (s : State) (off : Nat) : Nat → Nat
  | 0 => 0
  | t + 1 => if pad (bufByte s (off + t)) then trimmedLength pad s off t else t + 1

/-- The `STR_MAX` bytes GETSTR puts into `SB`: the field, then zeros (42_getstr.md R161). -/
def stringField (s : State) (off len : Nat) : Vector Byte Config.strMax :=
  Vector.ofFn fun i : Fin Config.strMax => if i.val < len then bufByte s (off + i.val) else 0

/-- The sum of the first `n` words at `off`, modulo `SUM_MOD` (43_csum.md R171, R172, R174). -/
def wordSum (o : ByteOrder) (s : State) (off : Nat) : Nat → Half
  | 0 => 0
  | n + 1 => BitVec.ofNat 16 (((wordSum o s off n).toNat + (read16 o s (off + 2 * n)).toNat) % Config.sumMod)

/-- A sector count in bytes: times 512 in `BYTES_WIDTH` bits, no bit lost (44_punpk.md R190). -/
def sectorBytes (count : Word32) : ByteCount := count.setWidth Config.bytesWidth <<< Config.sectorShift

end Sys2Proof.Machine
end

