-- ==== Sys2Proof/Machine/Flags.lean ====
section
/-! DEFINITION. The flags of `STATUS` (10_state.md R34 to R39) and its layout (R33). -/

namespace Sys2Proof.Machine

/-- `X`: the sum is 0x1234 (R34). -/
def flagX (sum : Half) : Bool := sum == Config.execSum

/-- The type is one of the three legal tags (44_punpk.md R191). -/
def legalTag (t : Tag) : Bool := t == Config.tagGem || t == Config.tagBgm || t == Config.tagXgm

/-- `PV`: the reserved flag bits are zero and the type is legal (R35). -/
def flagPV (f : Byte) (t : Tag) : Bool := (f &&& Config.flagRsvdMask) == 0 && legalTag t

/-- `PA`: bit 0 of the flags (R36). -/
def flagPA (f : Byte) : Bool := f.getLsbD Config.flagActiveBit

/-- `PB`: bit 7 of the flags (R37). -/
def flagPB (f : Byte) : Bool := f.getLsbD Config.flagBootBit

/-- `PX`: the type is "XGM", whether or not the flags are legal (R38). -/
def flagPX (t : Tag) : Bool := t == Config.tagXgm

/-- `PR`: valid, active and no container (R39). -/
def flagPR (f : Byte) (t : Tag) : Bool := flagPV f t && flagPA f && !flagPX t

/-- PUNPK's registers and flags, from the slot number, the flags byte, the type and the two sector counts
(44_punpk.md R186). -/
def setPartition (num : BitVec 4) (f : Byte) (t : Tag) (start len : Word32) (s : State) : State :=
  { s with
    pnum := num, pflags := f, ptype := t, pstart := sectorBytes start, plen := sectorBytes len, powner := 0,
    status := { s.status with
      pv := flagPV f t, pa := flagPA f, pb := flagPB f, px := flagPX t, pr := flagPR f t } }

/-- One flag as bit `n` of a word. -/
def flagBit (b : Bool) (n : Nat) : Word32 := if b then 1#32 <<< n else 0

/-- `STATUS` as the host reads it (R33): bits 31:10 read as 0. -/
def statusWord (t : Status) : Word32 :=
  flagBit t.f 0 ||| (t.fc.setWidth 32 <<< 1) ||| flagBit t.x 4 ||| flagBit t.pv 5 ||| flagBit t.pa 6
    ||| flagBit t.pb 7 ||| flagBit t.px 8 ||| flagBit t.pr 9

end Sys2Proof.Machine
end

