-- ==== Sys2Proof/Machine/Csum.lean ====
section
/-! DEFINITION. The CSUM commands (43_csum.md R170 to R175). -/

namespace Sys2Proof.Machine

/-- CSUM.BE (43_csum.md R171). -/
def execCsumbe (off len : Nat) (s : State) : Host.Outcome State Fault Refusal :=
  runCommand (encode (.csumbe off len)) ((oddLenCheck len).or (boundsCheck off len))
    (fun t => setSum (wordSum .big t off (len / 2)) (flagX (wordSum .big t off (len / 2))) t) s

/-- CSUM.LE (43_csum.md R172). -/
def execCsumle (off len : Nat) (s : State) : Host.Outcome State Fault Refusal :=
  runCommand (encode (.csumle off len)) ((oddLenCheck len).or (boundsCheck off len))
    (fun t => setSum (wordSum .little t off (len / 2)) (flagX (wordSum .little t off (len / 2))) t) s

end Sys2Proof.Machine
end

