-- ==== Sys2Proof/Machine/Get.lean ====
section
/-! DEFINITION. The GET commands (40_get.md R120 to R125). -/

namespace Sys2Proof.Machine

/-- GETU8 (40_get.md R121). -/
def execGetu8 (off : Nat) (s : State) : Host.Outcome State Fault Refusal :=
  runCommand (encode (.getu8 off)) (boundsCheck off 1) (fun t => setRes (zeroExtend (bufByte t off)) t) s

/-- GETU16.BE (40_get.md R122). -/
def execGetu16be (off : Nat) (s : State) : Host.Outcome State Fault Refusal :=
  runCommand (encode (.getu16be off)) (boundsCheck off 2) (fun t => setRes (zeroExtend (read16 .big t off)) t) s

/-- GETU16.LE (40_get.md R123). -/
def execGetu16le (off : Nat) (s : State) : Host.Outcome State Fault Refusal :=
  runCommand (encode (.getu16le off)) (boundsCheck off 2) (fun t => setRes (zeroExtend (read16 .little t off)) t) s

/-- GETU32.BE (40_get.md R124). -/
def execGetu32be (off : Nat) (s : State) : Host.Outcome State Fault Refusal :=
  runCommand (encode (.getu32be off)) (boundsCheck off 4) (fun t => setRes (read32 .big t off) t) s

/-- GETU32.LE (40_get.md R125). -/
def execGetu32le (off : Nat) (s : State) : Host.Outcome State Fault Refusal :=
  runCommand (encode (.getu32le off)) (boundsCheck off 4) (fun t => setRes (read32 .little t off) t) s

end Sys2Proof.Machine
end

