-- ==== Sys2Proof/Machine/Getstr.lean ====
section
/-! DEFINITION. The GETSTR command (42_getstr.md R161 to R164). -/

namespace Sys2Proof.Machine

/-- GETSTR (42_getstr.md R161). -/
def execGetstr (off len : Nat) (s : State) : Host.Outcome State Fault Refusal :=
  runCommand (encode (.getstr off len)) ((operandCheck len Config.strMax).or (boundsCheck off len))
    (fun t => setString (stringField t off len) (BitVec.ofNat 5 (trimmedLength isPadding t off len)) t) s

end Sys2Proof.Machine
end

