-- ==== Sys2Proof/Machine/Punpk.lean ====
section
/-! DEFINITION. The PUNPK command (44_punpk.md R185 to R196). -/

namespace Sys2Proof.Machine

/-- PUNPK (44_punpk.md R186). -/
def execPunpk (off num : Nat) (s : State) : Host.Outcome State Fault Refusal :=
  runCommand (encode (.punpk off num)) ((operandCheck num Config.numMax).or (boundsCheck off Config.slotSize))
    (fun t => setPartition (BitVec.ofNat 4 num) (bufByte t off) (read24 t (off + 1)) (read32 .big t (off + 4))
      (read32 .big t (off + 8)) t) s

end Sys2Proof.Machine
end

