-- ==== Sys2Proof/Machine/Set.lean ====
section
/-! DEFINITION. The SET commands (41_set.md R140 to R145). -/

namespace Sys2Proof.Machine

/-- SETU8 (41_set.md R141). -/
def execSetu8 (off : Nat) (val : Byte) (s : State) : Host.Outcome State Fault Refusal :=
  runCommand (encode (.setu8 off val)) (boundsCheck off 1) (fun t => memWrite t off [val]) s

/-- SETU16.BE (41_set.md R142). -/
def execSetu16be (off : Nat) (val : Half) (s : State) : Host.Outcome State Fault Refusal :=
  runCommand (encode (.setu16be off val)) (boundsCheck off 2) (fun t => memWrite t off (bytes16 .big val)) s

/-- SETU16.LE (41_set.md R143). -/
def execSetu16le (off : Nat) (val : Half) (s : State) : Host.Outcome State Fault Refusal :=
  runCommand (encode (.setu16le off val)) (boundsCheck off 2) (fun t => memWrite t off (bytes16 .little val)) s

/-- SETU32.BE (41_set.md R144). -/
def execSetu32be (off : Nat) (val : Word32) (s : State) : Host.Outcome State Fault Refusal :=
  runCommand (encode (.setu32be off val)) (boundsCheck off 4) (fun t => memWrite t off (bytes32 .big val)) s

/-- SETU32.LE (41_set.md R145). -/
def execSetu32le (off : Nat) (val : Word32) (s : State) : Host.Outcome State Fault Refusal :=
  runCommand (encode (.setu32le off val)) (boundsCheck off 4) (fun t => memWrite t off (bytes32 .little val)) s

end Sys2Proof.Machine
end

