-- ==== Sys2Proof/Machine/Dispatch.lean ====
section
/-! DEFINITION. One arm per command: steps 2 to 5 of 30_encoding.md R90. -/

namespace Sys2Proof.Machine

def exec (i : Instr) (s : State) : Host.Outcome State Fault Refusal :=
  match i with
  | .getu8 off => Sys2Proof.Machine.execGetu8 off s
  | .getu16be off => Sys2Proof.Machine.execGetu16be off s
  | .getu16le off => Sys2Proof.Machine.execGetu16le off s
  | .getu32be off => Sys2Proof.Machine.execGetu32be off s
  | .getu32le off => Sys2Proof.Machine.execGetu32le off s
  | .setu8 off val => Sys2Proof.Machine.execSetu8 off val s
  | .setu16be off val => Sys2Proof.Machine.execSetu16be off val s
  | .setu16le off val => Sys2Proof.Machine.execSetu16le off val s
  | .setu32be off val => Sys2Proof.Machine.execSetu32be off val s
  | .setu32le off val => Sys2Proof.Machine.execSetu32le off val s
  | .getstr off len => Sys2Proof.Machine.execGetstr off len s
  | .csumbe off len => Sys2Proof.Machine.execCsumbe off len s
  | .csumle off len => Sys2Proof.Machine.execCsumle off len s
  | .punpk off num => Sys2Proof.Machine.execPunpk off num s

end Sys2Proof.Machine
end

