-- ==== Sys2Proof/Machine/Ports.lean ====
section
/-! DEFINITION. The host's ports other than the command port, the reset input, and what the host computes on its copy of
a partition record (10_state.md R45 to R47, R52, 70_reset_and_hazards.md R240, R251). -/

namespace Sys2Proof.Machine

/-- `HostReadReg(n)` (R45): the register zero-extended to 64 bits; a number not listed reads as 0 (R46). -/
def readRegister (s : State) (n : BitVec 6) : BitVec 64 :=
  if h : 16 ≤ n.toNat ∧ n.toNat < 32 then (s.sb[n.toNat - 16]'(by change _ < 16; omega)).setWidth 64
  else match n.toNat with
    | 0 => (statusWord s.status).setWidth 64
    | 1 => s.res.setWidth 64
    | 2 => s.sum.setWidth 64
    | 3 => s.slen.setWidth 64
    | 4 => s.pnum.setWidth 64
    | 5 => s.pflags.setWidth 64
    | 6 => s.ptype.setWidth 64
    | 7 => s.pstart
    | 8 => s.plen
    | 9 => s.powner
    | 10 => s.fcmd
    | _ => 0

/-- The value goes to the host (log 4). -/
def reply (v : BitVec 64) (s : State) : State := { s with replies := v :: s.replies }

/-- `HostReadReg(n)`: no effect but the reply (R45). -/
def hostReadReg (n : BitVec 6) (s : State) : State := reply (readRegister s n) s

/-- `HostReadBuf(a)`: no effect but the reply (R47). -/
def hostReadBuf (a : BitVec 9) (s : State) : State := reply ((bufByte s a.toNat).setWidth 64) s

/-- `HostWriteBuf(a, b)` (R47). -/
def hostWriteBuf (a : BitVec 9) (b : Byte) (s : State) : State := memWrite s a.toNat [b]

/-- The reset input (70_reset_and_hazards.md R240): every register to 0; `BUF` is untouched (R241), and so is the host's
part (10_state.md R29). -/
def hostReset (s : State) : State :=
  { State.reset with buf := s.buf, k := s.k, moves := s.moves, replies := s.replies }

/-- `ownerOffset = isXGM ? xgmOffset : offset`, with `isXGM = PX` (10_state.md R52). -/
def ownerOffset (s : State) (xgmOffset offset : Nat) : Nat := if s.status.px then xgmOffset else offset

/-- `absoluteStart = ownerOffset + start` (10_state.md R52). -/
def absoluteStart (s : State) (owner : Nat) : Nat := owner + s.pstart.toNat

/-- `absoluteEnd = absoluteStart + length` (10_state.md R52). -/
def absoluteEnd (s : State) (owner : Nat) : Nat := absoluteStart s owner + s.plen.toNat

end Sys2Proof.Machine
end

