-- ==== Sys2Proof/Machine/Moves.lean ====
section
/-! DEFINITION. The host's moves on BAC: a command word issued on the command port (10_state.md R48, 30_encoding.md R90),
and the moves of 70_reset_and_hazards.md R251. -/

namespace Sys2Proof.Machine

/-- `HostIssue(w)` (10_state.md R48): decode the word and run the command, or raise `Illegal`. -/
def issueWord (w : Command) (s : State) : Host.Outcome State Fault Refusal :=
  match decode w with
  | .ok i => exec i s
  | .error _ => execIllegal w s

/-- One host move (70_reset_and_hazards.md R251). -/
def makeMove (m : HostMove) (s : State) : Host.Outcome State Fault Refusal :=
  match m with
  | .issue w => issueWord w s
  | .readReg n => .next (hostReadReg n s)
  | .readBuf a => .next (hostReadBuf a s)
  | .writeBuf a b => .next (hostWriteBuf a b s)
  | .reset => .next (hostReset s)

/-- The host is about to issue `w`: the move stands first among its pending moves. -/
def aboutToIssue (w : Command) (s : State) : State := { s with moves := .issue w :: s.moves }

end Sys2Proof.Machine
end

