-- ==== Sys2Proof/Machine/Step.lean ====
section
/-! DEFINITION. One step of the whole machine: the host makes its oldest pending move (00_scope.md R18), and BAC answers
it (30_encoding.md R90, 70_reset_and_hazards.md R251). -/

namespace Sys2Proof.Machine

/-- The oldest pending move leaves the queue and is made; with none pending BAC does nothing (70_reset_and_hazards.md
R240, log 3). -/
def step (s : State) : Host.Outcome State Fault Refusal :=
  match s.moves with
  | [] => .next s
  | m :: rest => makeMove m { s with moves := rest }

/-- `s` with the host about to issue the word of the low `nbits` bits of `w` (log 9). -/
def State.withFetchWord (s : State) (nbits w : Nat) : State := aboutToIssue (presentedWord nbits w) s

end Sys2Proof.Machine
end

