-- ==== Sys2Proof/Machine/HostCalls.lean ====
section
/-! DEFINITION. The host's conventions of 20_memory.md R78: the commands it issues on each structure it loads into `BUF`.
BAC itself knows nothing of them (R77). Where the spec marks a width open (91_not_in_source.md N12), both commands
stand. -/

namespace Sys2Proof.Machine

/-- Root sector: geometry, disk size, checksum, the 12 slots. -/
def rootSectorCalls : List Instr := [
  .getu16be 0x1B6, .getu8 0x1B6,
  .getu8 0x1B8, .getu16be 0x1B8,
  .getu8 0x1C1,
  .getu32be 0x1C2,
  csumsec,
  punpks 0, punpks 1, punpks 2, punpks 3, punpks 4, punpks 5, punpks 6, punpks 7, punpks 8, punpks 9, punpks 10,
  punpks 11]

/-- Boot sector: the fields from 0x0B on, the FAT16 and FAT32 fields, the checksum. -/
def bootSectorCalls : List Instr := [
  .getu16le 0x0B, .getu8 0x0D, .getu16le 0x0E, .getu8 0x10, .getu16le 0x11, .getu16le 0x13, .getu8 0x15,
  .getu16le 0x16, .getu16le 0x18, .getu16le 0x1A, .getu32le 0x1C, .getu32le 0x20, .getu32le 0x24,
  .getu8 0x26, .getu32le 0x27, .getstr 0x2B 11, .getstr 0x36 8,
  .getu8 0x42, .getu32le 0x43, .getstr 0x47 11, .getstr 0x52 8,
  csumsec]

/-- MBR entry `k`, 0 to 3 (41_set.md R147): flags, zero CHS bytes, type, first sector, sector count. -/
def mbrEntryCalls (k : Nat) (flags type : Byte) (start count : Word32) : List Instr := [
  .setu8 (0x1BE + 16 * k) flags,
  .setu8 (0x1BF + 16 * k) 0, .setu8 (0x1C0 + 16 * k) 0, .setu8 (0x1C1 + 16 * k) 0,
  .setu8 (0x1C2 + 16 * k) type,
  .setu8 (0x1C3 + 16 * k) 0, .setu8 (0x1C4 + 16 * k) 0, .setu8 (0x1C5 + 16 * k) 0,
  .setu32le (0x1C6 + 16 * k) start,
  .setu32le (0x1CA + 16 * k) count]

/-- MBR: the boot signature. -/
def mbrSignatureCalls : List Instr := [.setu8 0x1FE 0x55, .setu8 0x1FF 0xAA]

end Sys2Proof.Machine
end

