-- ==== Sys2Proof/Safety.lean ====
section
/-! DEFINITION. The terms claims about BAC are stated in: what a run that ends well is (00_scope.md R19), the invariant of the
machine, what the host can observe, and the spec's own tables of the opcodes (30_encoding.md R96), of the faults
(60_exceptions.md R216) and of the write sets (10_state.md R42). None of it is used by the machine. -/

namespace Sys2Proof.Safety

open Sys2Proof Sys2Proof.Machine

/-- The command list the host still holds (10_state.md R29): the words of its pending issue moves. -/
def program (s : State) : List Command :=
  s.moves.filterMap fun m => match m with
    | .issue w => some w
    | _ => none

/-- The state `n` steps on. -/
def runFor : Nat → State → State
  | 0, s => s
  | n + 1, s => match step s with
    | .next t => runFor n t
    | _ => s

/-- The state when every pending move has been made. -/
def afterRun (s : State) : State := runFor s.moves.length s

/-- The run from `s` ends well (00_scope.md R19): every command of the list has retired, so that the position has advanced
by their number (10_state.md R29), and `F = 0`. A word that faulted, or was not accepted, has not retired, also when a reset
has since ended the halt (60_exceptions.md R213). -/
def EndsWell (s : State) : Prop :=
  (afterRun s).k = s.k + (program s).length ∧ (afterRun s).status.f = false

/-- The run from `s` ends badly: a command of it faulted (00_scope.md R19): some step halts a running BAC. -/
def EndsBadly (s : State) : Prop :=
  ∃ n, (runFor n s).status.f = false ∧ (runFor (n + 1) s).status.f = true

/-- What every state that a run reaches satisfies: the relations the spec states between the registers. -/
structure Inv (s : State) : Prop where
  /-- `BUF` is in canonical form (log 2) -/
  bufWf : Memory.wf s.buf = true
  /-- while `F = 0`, `FC = 0` and `FCMD = 0` (10_state.md R40, R41) -/
  noFaultRecord : s.status.f = false → s.status.fc = 0 ∧ s.fcmd = 0
  /-- while `F = 1`, `FC` is one of the four codes (R33: 5, 6, 7 never occur) -/
  faultCode : s.status.f = true → 1 ≤ s.status.fc.toNat ∧ s.status.fc.toNat ≤ 4
  /-- `SLEN` is 0 to 16 (R25) -/
  slenBound : s.slen.toNat ≤ 16
  /-- the string read ends in no padding byte (42_getstr.md R166) -/
  trimmed : ∀ i : Fin 16, s.slen.toNat = i.val + 1 → isPadding s.sb[i] = false
  /-- `X` says whether `SUM` is 0x1234 (R34) -/
  markerX : s.status.x = (s.sum == 0x1234)
  /-- `PNUM` is 0 to 11 (R26) -/
  pnumBound : s.pnum.toNat ≤ 11
  /-- `PSTART` is a multiple of 512 below 2^41 (R30) -/
  pstartRange : s.pstart.toNat % 512 = 0 ∧ s.pstart.toNat < 2 ^ 41
  /-- `PLEN` is a multiple of 512 below 2^41 (R31) -/
  plenRange : s.plen.toNat % 512 = 0 ∧ s.plen.toNat < 2 ^ 41
  /-- `POWNER` is 0 (R32) -/
  pownerZero : s.powner = 0
  /-- `PA` and `PB` are bits of `PFLAGS` (R36, R37) -/
  flagBits : s.status.pa = s.pflags.getLsbD 0 ∧ s.status.pb = s.pflags.getLsbD 7
  /-- `PX` says whether `PTYPE` is "XGM" (R38) -/
  markerPX : s.status.px = (s.ptype == 0x58474D)
  /-- `PV` (R35) -/
  markerPV : s.status.pv = ((s.pflags &&& 0x7E == 0) &&
    (s.ptype == 0x47454D || s.ptype == 0x42474D || s.ptype == 0x58474D))
  /-- `PR` (R39) -/
  markerPR : s.status.pr = (s.status.pv && s.status.pa && !s.status.px)

/-- `BUF` has the same bytes in both states. -/
def SameBuffer (s t : State) : Prop := ∀ a, a < 512 → bufByte s a = bufByte t a

/-- The ten result registers are the same (10_state.md R20). -/
def SameResults (s t : State) : Prop :=
  s.res = t.res ∧ s.sum = t.sum ∧ s.slen = t.slen ∧ s.sb = t.sb ∧ s.pnum = t.pnum ∧ s.pflags = t.pflags ∧
    s.ptype = t.ptype ∧ s.pstart = t.pstart ∧ s.plen = t.plen ∧ s.powner = t.powner

/-- What the host can observe is the same (00_scope.md R19): `BUF`, every result register, `STATUS`, `FCMD`. -/
def SameView (s t : State) : Prop :=
  SameBuffer s t ∧ SameResults s t ∧ s.status = t.status ∧ s.fcmd = t.fcmd

/-- A row of the command table (30_encoding.md R96): what a matching word stands for is `command`. -/
structure TableRow where
  mnemonic : String
  pattern : Command
  mask : Command
  command : Command → Instr

/-- The field `off` of a word (R91). -/
def offField (w : Command) : Nat := (w.extractLsb' 32 10).toNat

/-- The field `aux` of a word (R91). -/
def auxField (w : Command) : Nat := (w.extractLsb' 42 10).toNat

/-- The complete command table (30_encoding.md R96). -/
def commandTable : List TableRow := [
  ⟨"GETU8", 0x1000000000000000, 0xFFFFFC00FFFFFFFF, fun w => .getu8 (offField w)⟩,
  ⟨"GETU16.BE", 0x1100000000000000, 0xFFFFFC00FFFFFFFF, fun w => .getu16be (offField w)⟩,
  ⟨"GETU16.LE", 0x1180000000000000, 0xFFFFFC00FFFFFFFF, fun w => .getu16le (offField w)⟩,
  ⟨"GETU32.BE", 0x1200000000000000, 0xFFFFFC00FFFFFFFF, fun w => .getu32be (offField w)⟩,
  ⟨"GETU32.LE", 0x1280000000000000, 0xFFFFFC00FFFFFFFF, fun w => .getu32le (offField w)⟩,
  ⟨"SETU8", 0x2000000000000000, 0xFFFFFC00FFFFFF00, fun w => .setu8 (offField w) (w.extractLsb' 0 8)⟩,
  ⟨"SETU16.BE", 0x2100000000000000, 0xFFFFFC00FFFF0000, fun w => .setu16be (offField w) (w.extractLsb' 0 16)⟩,
  ⟨"SETU16.LE", 0x2180000000000000, 0xFFFFFC00FFFF0000, fun w => .setu16le (offField w) (w.extractLsb' 0 16)⟩,
  ⟨"SETU32.BE", 0x2200000000000000, 0xFFFFFC0000000000, fun w => .setu32be (offField w) (w.extractLsb' 0 32)⟩,
  ⟨"SETU32.LE", 0x2280000000000000, 0xFFFFFC0000000000, fun w => .setu32le (offField w) (w.extractLsb' 0 32)⟩,
  ⟨"GETSTR", 0x3000000000000000, 0xFFF00000FFFFFFFF, fun w => .getstr (offField w) (auxField w)⟩,
  ⟨"CSUM.BE", 0x4000000000000000, 0xFFF00000FFFFFFFF, fun w => .csumbe (offField w) (auxField w)⟩,
  ⟨"CSUM.LE", 0x4080000000000000, 0xFFF00000FFFFFFFF, fun w => .csumle (offField w) (auxField w)⟩,
  ⟨"PUNPK", 0x5000000000000000, 0xFFF00000FFFFFFFF, fun w => .punpk (offField w) (auxField w)⟩]

/-- The words that decode to `i` are exactly the one whose value is `n` (30_encoding.md R91, R96). -/
def HasWord (i : Instr) (n : Nat) : Prop :=
  ∀ w : Command, decode w = .ok i ↔ wellFormed i = true ∧ w = BitVec.ofNat 64 n

/-- `s` with a fault of this code and word recorded, and nothing else changed (60_exceptions.md R212). -/
def faultRecorded (code : BitVec 3) (w : Command) (s : State) : State :=
  { s with status := { s.status with f := true, fc := code }, fcmd := w }

/-- A 16-bit big-endian value at `a`, as a natural (20_memory.md R62). -/
def big16 (s : State) (a : Nat) : Nat := (bufByte s a).toNat * 256 + (bufByte s (a + 1)).toNat

/-- A 16-bit little-endian value at `a`, as a natural (20_memory.md R63). -/
def little16 (s : State) (a : Nat) : Nat := (bufByte s a).toNat + (bufByte s (a + 1)).toNat * 256

/-- A 32-bit big-endian value at `a`, as a natural (20_memory.md R62). -/
def big32 (s : State) (a : Nat) : Nat :=
  (bufByte s a).toNat * 2 ^ 24 + (bufByte s (a + 1)).toNat * 2 ^ 16 + (bufByte s (a + 2)).toNat * 2 ^ 8
    + (bufByte s (a + 3)).toNat

/-- A 32-bit little-endian value at `a`, as a natural (20_memory.md R63). -/
def little32 (s : State) (a : Nat) : Nat :=
  (bufByte s a).toNat + (bufByte s (a + 1)).toNat * 2 ^ 8 + (bufByte s (a + 2)).toNat * 2 ^ 16
    + (bufByte s (a + 3)).toNat * 2 ^ 24

/-- The word raises `Illegal` wherever BAC accepts it (60_exceptions.md R211, R212). -/
def RaisesIllegal (w : Command) : Prop :=
  ∀ s : State, s.status.f = false → issueWord w s = .next (faultRecorded 1 w s)

/-- The code of the fault a command raises, 0 for none: the conditions of 60_exceptions.md R216. -/
def faultCodeOf : Instr → Nat
  | .getu8 off | .setu8 off _ => if 512 ≤ off then 4 else 0
  | .getu16be off | .getu16le off | .setu16be off _ | .setu16le off _ => if 511 ≤ off then 4 else 0
  | .getu32be off | .getu32le off | .setu32be off _ | .setu32le off _ => if 509 ≤ off then 4 else 0
  | .getstr off len => if 16 < len then 2 else if 512 < off + len then 4 else 0
  | .csumbe off len | .csumle off len => if len % 2 = 1 then 3 else if 512 < off + len then 4 else 0
  | .punpk off num => if 11 < num then 2 else if 500 < off then 4 else 0

/-- The bytes of `BUF` a command touches: the first address and how many (20_memory.md R67). -/
def touched : Instr → Nat × Nat
  | .getu8 off | .setu8 off _ => (off, 1)
  | .getu16be off | .getu16le off | .setu16be off _ | .setu16le off _ => (off, 2)
  | .getu32be off | .getu32le off | .setu32be off _ | .setu32le off _ => (off, 4)
  | .getstr off len | .csumbe off len | .csumle off len => (off, len)
  | .punpk off _ => (off, 12)

/-- From `s` to `t` no byte of `BUF` outside `off … off + n - 1` changed, and nothing else but the host's position
(20_memory.md R67, R82). -/
def StoresOnly (off n : Nat) (s t : State) : Prop :=
  (∀ a, a < off ∨ off + n ≤ a → bufByte t a = bufByte s a) ∧ t = { s with buf := t.buf, k := t.k }

/-- The write sets of 10_state.md R42: a retiring command changes nothing outside its row, but the host's position. -/
def WritesOnly (s t : State) : Instr → Prop
  | .getu8 _ | .getu16be _ | .getu16le _ | .getu32be _ | .getu32le _ => t = { s with res := t.res, k := t.k }
  | .setu8 off _ => StoresOnly off 1 s t
  | .setu16be off _ | .setu16le off _ => StoresOnly off 2 s t
  | .setu32be off _ | .setu32le off _ => StoresOnly off 4 s t
  | .getstr _ _ => t = { s with sb := t.sb, slen := t.slen, k := t.k }
  | .csumbe _ _ | .csumle _ _ => t = { s with sum := t.sum, status := { s.status with x := t.status.x }, k := t.k }
  | .punpk _ _ => t = { s with
      pnum := t.pnum, pflags := t.pflags, ptype := t.ptype, pstart := t.pstart, plen := t.plen, powner := t.powner,
      status := { s.status with
        pv := t.status.pv, pa := t.status.pa, pb := t.status.pb, px := t.status.px, pr := t.status.pr },
      k := t.k }

/-- What a command writes, registers, flags and bytes, is the same in both states (10_state.md R42). -/
def SameWritten (t t' : State) : Instr → Prop
  | .getu8 _ | .getu16be _ | .getu16le _ | .getu32be _ | .getu32le _ => t.res = t'.res
  | .setu8 off _ => bufByte t off = bufByte t' off
  | .setu16be off _ | .setu16le off _ => ∀ a, off ≤ a → a < off + 2 → bufByte t a = bufByte t' a
  | .setu32be off _ | .setu32le off _ => ∀ a, off ≤ a → a < off + 4 → bufByte t a = bufByte t' a
  | .getstr _ _ => t.sb = t'.sb ∧ t.slen = t'.slen
  | .csumbe _ _ | .csumle _ _ => t.sum = t'.sum ∧ t.status.x = t'.status.x
  | .punpk _ _ => t.pnum = t'.pnum ∧ t.pflags = t'.pflags ∧ t.ptype = t'.ptype ∧ t.pstart = t'.pstart ∧
      t.plen = t'.plen ∧ t.powner = t'.powner ∧ t.status.pv = t'.status.pv ∧ t.status.pa = t'.status.pa ∧
      t.status.pb = t'.status.pb ∧ t.status.px = t'.status.px ∧ t.status.pr = t'.status.pr

end Sys2Proof.Safety
end

