-- ==== Sys2Proof/Certificates/Slice0/Obligations.lean ====
section
/-! DEFINITION. The statements for the provers: what spec/ says the encoding, every command, the faults, the ports and the
machine as a whole do. "log n" is notes/assumptions/n.md. -/

open Sys2Proof Sys2Proof.Machine Sys2Proof.Safety

/-! ## Encoding -/

/-- The decoder gives back every command that can be encoded, every operand value included (30_encoding.md sections 2
to 4; that operands are naturals is log 11). -/
def Obligations.DecodeOfEncodeIsTheCommand : Prop :=
  ∀ i : Instr, wellFormed i = true → decode (encode i) = .ok i

/-- Every word that is a command is the word of that command and of no other: no bit of a word is dropped. -/
def Obligations.EncodeOfDecodeIsTheWord : Prop :=
  ∀ (w : Command) (i : Instr), decode w = .ok i → encode i = w ∧ wellFormed i = true

/-- A word is a command iff it agrees with that row's match under its mask, and the operands are the free fields (the table of
30_encoding.md section 4, held row by row in `commandTable`); no word matches two rows, which the spec infers: R95 marks that
clause `[derived: from rule R96]`. -/
def Obligations.DecodeFollowsMatchAndMask : Prop :=
  ∀ w : Command,
    (∀ r ∈ commandTable, w &&& r.mask = r.pattern → decode w = .ok (r.command w)) ∧
    ((∀ r ∈ commandTable, w &&& r.mask ≠ r.pattern) → ∃ e, decode w = .error e) ∧
    (∀ r ∈ commandTable, ∀ r' ∈ commandTable,
      w &&& r.mask = r.pattern → w &&& r'.mask = r'.pattern → r.mnemonic = r'.mnemonic)

/-- The worked encodings of 30_encoding.md section 6 (the spec marks its table derived). -/
def Obligations.ExampleWordsDecode : Prop :=
  decode 0x1000002600000000 = .ok (.getu8 0x26) ∧ decode 0x1180000B00000000 = .ok (.getu16le 0x0B) ∧
  decode 0x120001C200000000 = .ok (.getu32be 0x1C2) ∧ decode 0x200001FE00000055 = .ok (.setu8 0x1FE 0x55) ∧
  decode 0x210001FE00001234 = .ok (.setu16be 0x1FE 0x1234) ∧
  decode 0x228001CA00000800 = .ok (.setu32le 0x1CA 2048) ∧ decode 0x30002C2B00000000 = .ok (.getstr 0x2B 11) ∧
  decode 0x4008000000000000 = .ok (.csumbe 0 512) ∧ decode 0x4088000000000000 = .ok (.csumle 0 512) ∧
  decode 0x500001C600000000 = .ok (.punpk 0x1C6 0) ∧ decode 0x5000115600000000 = .ok (.punpk 0x156 4)

/-- 30_encoding.md R98 to R102: an unknown opcode, a reserved bit, a byte-order bit where there is no order, a nonzero
unused field and a value too wide are each `Illegal`. -/
def Obligations.ReservedEncodingsAreIllegal : Prop :=
  ∀ w : Command,
    ((w.extractLsb' 56 8).toNat ∉ [0x10, 0x11, 0x12, 0x20, 0x21, 0x22, 0x30, 0x40, 0x50] → RaisesIllegal w) ∧
    (w.extractLsb' 52 3 ≠ 0 → RaisesIllegal w) ∧
    (w.getLsbD 55 = true → (w.extractLsb' 56 8).toNat ∈ [0x10, 0x20, 0x30, 0x50] → RaisesIllegal w) ∧
    (w.extractLsb' 42 10 ≠ 0 → (w.extractLsb' 56 8).toNat ∈ [0x10, 0x11, 0x12, 0x20, 0x21, 0x22] →
      RaisesIllegal w) ∧
    (w.extractLsb' 0 32 ≠ 0 → (w.extractLsb' 56 8).toNat ∈ [0x10, 0x11, 0x12, 0x30, 0x40, 0x50] →
      RaisesIllegal w) ∧
    (w.extractLsb' 8 24 ≠ 0 → (w.extractLsb' 56 8).toNat = 0x20 → RaisesIllegal w) ∧
    (w.extractLsb' 16 16 ≠ 0 → (w.extractLsb' 56 8).toNat = 0x21 → RaisesIllegal w)

/-- 30_encoding.md R104: every word is exactly one of a command or `Illegal`. -/
def Obligations.EveryWordIsCommandOrIllegal : Prop :=
  ∀ w : Command, (∃ i, decode w = .ok i) ↔ ¬ RaisesIllegal w

/-- 30_encoding.md R107: what the two pseudo-instructions expand to. -/
def Obligations.PseudoInstructionsExpand : Prop :=
  csumsec = .csumbe 0 512 ∧ (∀ n, n ≤ 3 → punpks n = .punpk (0x1C6 + 12 * n) n) ∧
  (∀ n, 4 ≤ n → n ≤ 11 → punpks n = .punpk (0x156 + 12 * (n - 4)) n)

/-! ## The step and the ports -/

/-- A step that issues a word runs the command the word decodes to; the issue move leaves the host's queue first, and
nothing else is around `exec` (the queue is the model's form of the host, log 3). -/
def Obligations.StepRunsTheDecodedCommand : Prop :=
  ∀ (s : State) (w : Command) (rest : List HostMove) (i : Instr),
    s.moves = .issue w :: rest → decode w = .ok i → step s = exec i { s with moves := rest }

/-- A step that issues a word no row matches takes `Illegal`: code 1, the word in `FCMD` (the queue is log 3). -/
def Obligations.StepTakesIllegal : Prop :=
  ∀ (s : State) (w : Command) (rest : List HostMove) (e : Reject),
    s.moves = .issue w :: rest → decode w = .error e → s.status.f = false →
      step s = .next (faultRecorded 1 w { s with moves := rest })

/-- A step makes any other host move in every state, halted or not, and with no move pending changes nothing (log 3,
log 4). -/
def Obligations.StepMakesHostMoves : Prop :=
  ∀ (s : State) (rest : List HostMove),
    (s.moves = [] → step s = .next s) ∧
    (∀ n, s.moves = .readReg n :: rest →
      step s = .next { s with moves := rest, replies := readRegister s n :: s.replies }) ∧
    (∀ a, s.moves = .readBuf a :: rest →
      step s = .next { s with moves := rest, replies := (bufByte s a.toNat).setWidth 64 :: s.replies }) ∧
    (∀ a b, s.moves = .writeBuf a b :: rest → step s = .next (hostWriteBuf a b { s with moves := rest })) ∧
    (s.moves = .reset :: rest → step s = .next (hostReset { s with moves := rest }))

/-- A halted BAC accepts no command: issuing one, legal or not, changes no state (that the move is then passed over is
log 5). -/
def Obligations.HaltedAcceptsNoCommand : Prop :=
  ∀ s : State, s.status.f = true → (∀ i, exec i s = .next s) ∧ (∀ w, issueWord w s = .next s)

/-- Whatever the host does but reset, a halted BAC stays halted with its first fault and all its registers (log 3). -/
def Obligations.HaltLastsUntilReset : Prop :=
  ∀ s t : State, step s = .next t → s.status.f = true → (∀ rest, s.moves ≠ .reset :: rest) →
    t.status = s.status ∧ t.fcmd = s.fcmd ∧ SameResults s t ∧ t.k = s.k

/-- There is no hang and nothing to refuse: every step answers a next state. The spec's rule R227 marks this derived; that a
step exists with no move pending is log 3 and with a word issued while halted log 5 (the spec has no step there, and the model
passes the move over), and that the type of model faults is empty is log 14: the model's choices. -/
def Obligations.EveryStepCompletes : Prop :=
  ∀ s : State, ∃ t, step s = .next t

/-- The host's position advances by exactly one for a command that retires and by nothing else (the position is host
state; the queue is log 3). -/
def Obligations.PositionCountsRetiredCommands : Prop :=
  ∀ s t : State, step s = .next t →
    (∀ w rest, s.moves = .issue w :: rest → s.status.f = false →
      t.k = if t.status.f then s.k else s.k + 1) ∧
    ((∀ w rest, s.moves ≠ .issue w :: rest) ∨ s.status.f = true → t.k = s.k)

/-- 10_state.md R45, R46: what each register number reads as, and that reading has no effect on BAC. -/
def Obligations.RegisterReadPort : Prop :=
  ∀ s : State,
    readRegister s 0 = (statusWord s.status).setWidth 64 ∧ readRegister s 1 = s.res.setWidth 64 ∧
    readRegister s 2 = s.sum.setWidth 64 ∧ readRegister s 3 = s.slen.setWidth 64 ∧
    readRegister s 4 = s.pnum.setWidth 64 ∧ readRegister s 5 = s.pflags.setWidth 64 ∧
    readRegister s 6 = s.ptype.setWidth 64 ∧ readRegister s 7 = s.pstart ∧ readRegister s 8 = s.plen ∧
    readRegister s 9 = s.powner ∧ readRegister s 10 = s.fcmd ∧
    (∀ i : Fin 16, readRegister s (BitVec.ofNat 6 (16 + i.val)) = s.sb[i].setWidth 64) ∧
    (∀ n : BitVec 6, (11 ≤ n.toNat ∧ n.toNat ≤ 15) ∨ 32 ≤ n.toNat → readRegister s n = 0) ∧
    (∀ n : BitVec 6, ∃ r, hostReadReg n s = { s with replies := r })

/-- The layout of `STATUS` (10_state.md section 4): every field at its bits, bits 31:10 zero. -/
def Obligations.StatusLayout : Prop :=
  ∀ t : Status,
    (statusWord t).getLsbD 0 = t.f ∧ (statusWord t).extractLsb' 1 3 = t.fc ∧ (statusWord t).getLsbD 4 = t.x ∧
    (statusWord t).getLsbD 5 = t.pv ∧ (statusWord t).getLsbD 6 = t.pa ∧ (statusWord t).getLsbD 7 = t.pb ∧
    (statusWord t).getLsbD 8 = t.px ∧ (statusWord t).getLsbD 9 = t.pr ∧
    (statusWord t).extractLsb' 10 22 = 0

/-- The buffer port, in every state (10_state.md section 6); it agrees with SETU8 and GETU8. Model's choices: that the answer is
the head of the list of replies, zero-extended to 64 bits, is log 4; that the two `BUF` lists are equal, not only their bytes,
is log 2. -/
def Obligations.BufferPort : Prop :=
  ∀ (s : State) (a : BitVec 9) (b : Byte),
    (∃ r, hostReadBuf a s = { s with replies := r } ∧ r.head? = some ((bufByte s a.toNat).setWidth 64)) ∧
    bufByte (hostWriteBuf a b s) a.toNat = b ∧
    (∀ a', a' ≠ a.toNat → bufByte (hostWriteBuf a b s) a' = bufByte s a') ∧
    hostWriteBuf a b s = { s with buf := (hostWriteBuf a b s).buf } ∧
    (s.status.f = false → ∃ t u, exec (.setu8 a.toNat b) s = .next t ∧ t.buf = (hostWriteBuf a b s).buf ∧
      exec (.getu8 a.toNat) s = .next u ∧ u.res.extractLsb' 0 8 = bufByte s a.toNat)

/-- Reset in any state puts every register at 0, and BAC then does nothing until a command is issued; no other step clears `F`
(70_reset_and_hazards.md section 1, rule R240). `BUF` is kept (the same section, R241) and so is the host's position
(10_state.md R29). Model's choice: that a step with no move pending answers the same state, and the queue of moves the last
two clauses speak of, are log 3. -/
def Obligations.ResetClearsRegisters : Prop :=
  ∀ s : State,
    (hostReset s).res = 0 ∧ (hostReset s).sum = 0 ∧ (hostReset s).slen = 0 ∧
    (∀ i : Fin 16, (hostReset s).sb[i] = 0) ∧ (hostReset s).pnum = 0 ∧ (hostReset s).pflags = 0 ∧
    (hostReset s).ptype = 0 ∧ (hostReset s).pstart = 0 ∧ (hostReset s).plen = 0 ∧ (hostReset s).powner = 0 ∧
    statusWord (hostReset s).status = 0 ∧ (hostReset s).status.f = false ∧ (hostReset s).fcmd = 0 ∧
    (∀ a, bufByte (hostReset s) a = bufByte s a) ∧ (hostReset s).k = s.k ∧
    (s.moves = [] → step (hostReset s) = .next (hostReset s)) ∧
    (∀ t, step s = .next t → s.status.f = true → (∀ rest, s.moves ≠ .reset :: rest) → t.status.f = true)

/-- The state after power-on and reset: the registers are 0 (10_state.md section 8), every byte of `BUF` is the free
power-on byte (log 1), the host is at position 0 with nothing pending (log 3, log 6), and it holds no reply (log 4). -/
def Obligations.ResetStateValues : Prop :=
  (∀ n : BitVec 6, readRegister State.reset n = 0) ∧
  (∀ a, bufByte State.reset a = Config.powerOnByte a) ∧
  State.reset.k = 0 ∧ State.reset.moves = [] ∧ State.reset.replies = []

/-- From a running BAC, a run either ends well or ends badly, never both (00_scope.md section 7); it ends well exactly if it
never reaches the halt (60_exceptions.md section 1), whatever resets come later. That a word issued while halted is passed
over is log 5, the queue of moves log 3. -/
def Obligations.RunsEndWellIffNeverHalted : Prop :=
  ∀ s : State, s.status.f = false →
    (EndsWell s ↔ ¬ EndsBadly s) ∧ (EndsWell s ↔ ∀ n, (runFor n s).status.f = false) ∧ (afterRun s).moves = []

/-! ## Faults -/

/-- 60_exceptions.md R215, R216: which fault a word raises, and that the first in the order `Illegal`, `Operand`, `OddLen`,
`Bounds` is reported; a word with none of the conditions does not halt BAC. -/
def Obligations.FaultConditions : Prop :=
  ∀ (w : Command) (s t : State), s.status.f = false → issueWord w s = .next t →
    (∀ e, decode w = .error e → t.status.f = true ∧ t.status.fc.toNat = 1) ∧
    (∀ i, decode w = .ok i →
      (t.status.f = true ↔ faultCodeOf i ≠ 0) ∧ (t.status.f = true → t.status.fc.toNat = faultCodeOf i))

/-- 60_exceptions.md R212: a faulting word writes `F`, `FC` (the code of its fault) and `FCMD` (the word, all 64 bits) and
nothing else; the host's position stays. -/
def Obligations.FaultWritesOnlyItsRecord : Prop :=
  ∀ (w : Command) (s t : State), s.status.f = false → issueWord w s = .next t → t.status.f = true →
    t = faultRecorded t.status.fc w s ∧ (∀ e, decode w = .error e → t.status.fc = 1) ∧
    (∀ i, decode w = .ok i → t.status.fc.toNat = faultCodeOf i)

/-- Whether and how a word faults depends on the word alone, not on `BUF` or any register (60_exceptions.md section 1,
which marks it derived). -/
def Obligations.FaultDependsOnTheWordAlone : Prop :=
  ∀ (w : Command) (s s' t t' : State), s.status.f = false → s'.status.f = false →
    issueWord w s = .next t → issueWord w s' = .next t' →
    t.status.f = t'.status.f ∧ (t.status.f = true → t.status.fc = t'.status.fc ∧ t.fcmd = t'.fcmd)

/-- 20_memory.md R69: no access wraps (what a retiring command touches ends inside `BUF`); a 16-bit access at 511 is `Bounds`;
a zero length passes for every `off` from 0 to 512 and touches no byte, and faults from 513 on. -/
def Obligations.NoWrapAndZeroLengths : Prop :=
  ∀ s : State, s.status.f = false →
    (∀ i t, exec i s = .next t → t.status.f = false → (touched i).1 + (touched i).2 ≤ 512) ∧
    (∀ i ∈ [Instr.getu16be 511, .getu16le 511], exec i s = .next (faultRecorded 4 (encode i) s)) ∧
    (∀ v, ∀ i ∈ [Instr.setu16be 511 v, .setu16le 511 v], exec i s = .next (faultRecorded 4 (encode i) s)) ∧
    (∀ off, off ≤ 512 →
      exec (.getstr off 0) s = .next { s with sb := Vector.replicate 16 0, slen := 0, k := s.k + 1 } ∧
      exec (.csumbe off 0) s = .next { s with sum := 0, status := { s.status with x := false }, k := s.k + 1 } ∧
      exec (.csumle off 0) s = .next { s with sum := 0, status := { s.status with x := false }, k := s.k + 1 }) ∧
    (∀ off, 513 ≤ off → ∀ i ∈ [Instr.getstr off 0, .csumbe off 0, .csumle off 0],
      exec i s = .next (faultRecorded 4 (encode i) s))

/-! ## GET -/

/-- 40_get.md R121. -/
def Obligations.GetU8ReadsOneByte : Prop :=
  ∀ (off : Nat) (s : State),
    HasWord (.getu8 off) (0x1000000000000000 + off * 2 ^ 32) ∧
    (s.status.f = false → off + 1 ≤ 512 → ∃ t, exec (.getu8 off) s = .next t ∧
      t.res.toNat = (bufByte s off).toNat ∧ t = { s with res := t.res, k := s.k + 1 }) ∧
    (s.status.f = false → 512 ≤ off → exec (.getu8 off) s = .next (faultRecorded 4 (encode (.getu8 off)) s))

/-- 40_get.md R122. -/
def Obligations.GetU16BigEndianReads : Prop :=
  ∀ (off : Nat) (s : State),
    HasWord (.getu16be off) (0x1100000000000000 + off * 2 ^ 32) ∧
    (s.status.f = false → off + 2 ≤ 512 → ∃ t, exec (.getu16be off) s = .next t ∧
      t.res.toNat = big16 s off ∧ t = { s with res := t.res, k := s.k + 1 }) ∧
    (s.status.f = false → 511 ≤ off →
      exec (.getu16be off) s = .next (faultRecorded 4 (encode (.getu16be off)) s))

/-- 40_get.md R123. -/
def Obligations.GetU16LittleEndianReads : Prop :=
  ∀ (off : Nat) (s : State),
    HasWord (.getu16le off) (0x1180000000000000 + off * 2 ^ 32) ∧
    (s.status.f = false → off + 2 ≤ 512 → ∃ t, exec (.getu16le off) s = .next t ∧
      t.res.toNat = little16 s off ∧ t = { s with res := t.res, k := s.k + 1 }) ∧
    (s.status.f = false → 511 ≤ off →
      exec (.getu16le off) s = .next (faultRecorded 4 (encode (.getu16le off)) s))

/-- 40_get.md R124. -/
def Obligations.GetU32BigEndianReads : Prop :=
  ∀ (off : Nat) (s : State),
    HasWord (.getu32be off) (0x1200000000000000 + off * 2 ^ 32) ∧
    (s.status.f = false → off + 4 ≤ 512 → ∃ t, exec (.getu32be off) s = .next t ∧
      t.res.toNat = big32 s off ∧ t = { s with res := t.res, k := s.k + 1 }) ∧
    (s.status.f = false → 509 ≤ off →
      exec (.getu32be off) s = .next (faultRecorded 4 (encode (.getu32be off)) s))

/-- 40_get.md R125. -/
def Obligations.GetU32LittleEndianReads : Prop :=
  ∀ (off : Nat) (s : State),
    HasWord (.getu32le off) (0x1280000000000000 + off * 2 ^ 32) ∧
    (s.status.f = false → off + 4 ≤ 512 → ∃ t, exec (.getu32le off) s = .next t ∧
      t.res.toNat = little32 s off ∧ t = { s with res := t.res, k := s.k + 1 }) ∧
    (s.status.f = false → 509 ≤ off →
      exec (.getu32le off) s = .next (faultRecorded 4 (encode (.getu32le off)) s))

/-- The wide reads are composed of the narrow ones (40_get.md, the composition laws, which the spec marks derived). -/
def Obligations.GetsCompose : Prop :=
  ∀ (off : Nat) (s : State), s.status.f = false →
    (off + 2 ≤ 512 → ∃ b0 b1 h l, exec (.getu8 off) s = .next b0 ∧ exec (.getu8 (off + 1)) s = .next b1 ∧
      exec (.getu16be off) s = .next h ∧ exec (.getu16le off) s = .next l ∧
      h.res.toNat = b0.res.toNat * 256 + b1.res.toNat ∧ l.res.toNat = b0.res.toNat + b1.res.toNat * 256) ∧
    (off + 4 ≤ 512 → ∃ h0 h1 l0 l1 h l,
      exec (.getu16be off) s = .next h0 ∧ exec (.getu16be (off + 2)) s = .next h1 ∧
      exec (.getu16le off) s = .next l0 ∧ exec (.getu16le (off + 2)) s = .next l1 ∧
      exec (.getu32be off) s = .next h ∧ exec (.getu32le off) s = .next l ∧
      h.res.toNat = h0.res.toNat * 65536 + h1.res.toNat ∧ l.res.toNat = l0.res.toNat + l1.res.toNat * 65536)

/-- The little-endian value is the byte reversal of the big-endian one (20_memory.md section 7, marked derived). -/
def Obligations.LittleEndianIsByteReversal : Prop :=
  ∀ (off : Nat) (s : State), s.status.f = false →
    (off + 2 ≤ 512 → ∃ b l, exec (.getu16be off) s = .next b ∧ exec (.getu16le off) s = .next l ∧
      l.res = 0#16 ++ b.res.extractLsb' 0 8 ++ b.res.extractLsb' 8 8) ∧
    (off + 4 ≤ 512 → ∃ b l, exec (.getu32be off) s = .next b ∧ exec (.getu32le off) s = .next l ∧
      l.res = b.res.extractLsb' 0 8 ++ b.res.extractLsb' 8 8 ++ b.res.extractLsb' 16 8 ++ b.res.extractLsb' 24 8)

/-! ## SET -/

/-- 41_set.md R141. -/
def Obligations.SetU8StoresOneByte : Prop :=
  ∀ (off : Nat) (val : Byte) (s : State),
    HasWord (.setu8 off val) (0x2000000000000000 + off * 2 ^ 32 + val.toNat) ∧
    (s.status.f = false → off + 1 ≤ 512 → ∃ t, exec (.setu8 off val) s = .next t ∧
      bufByte t off = val ∧ StoresOnly off 1 s t ∧ t.k = s.k + 1) ∧
    (s.status.f = false → 512 ≤ off →
      exec (.setu8 off val) s = .next (faultRecorded 4 (encode (.setu8 off val)) s))

/-- 41_set.md R142. -/
def Obligations.SetU16BigEndianStores : Prop :=
  ∀ (off : Nat) (val : Half) (s : State),
    HasWord (.setu16be off val) (0x2100000000000000 + off * 2 ^ 32 + val.toNat) ∧
    (s.status.f = false → off + 2 ≤ 512 → ∃ t, exec (.setu16be off val) s = .next t ∧
      bufByte t off = val.extractLsb' 8 8 ∧ bufByte t (off + 1) = val.extractLsb' 0 8 ∧
      StoresOnly off 2 s t ∧ t.k = s.k + 1) ∧
    (s.status.f = false → 511 ≤ off →
      exec (.setu16be off val) s = .next (faultRecorded 4 (encode (.setu16be off val)) s))

/-- 41_set.md R143. -/
def Obligations.SetU16LittleEndianStores : Prop :=
  ∀ (off : Nat) (val : Half) (s : State),
    HasWord (.setu16le off val) (0x2180000000000000 + off * 2 ^ 32 + val.toNat) ∧
    (s.status.f = false → off + 2 ≤ 512 → ∃ t, exec (.setu16le off val) s = .next t ∧
      bufByte t off = val.extractLsb' 0 8 ∧ bufByte t (off + 1) = val.extractLsb' 8 8 ∧
      StoresOnly off 2 s t ∧ t.k = s.k + 1) ∧
    (s.status.f = false → 511 ≤ off →
      exec (.setu16le off val) s = .next (faultRecorded 4 (encode (.setu16le off val)) s))

/-- 41_set.md R144. -/
def Obligations.SetU32BigEndianStores : Prop :=
  ∀ (off : Nat) (val : Word32) (s : State),
    HasWord (.setu32be off val) (0x2200000000000000 + off * 2 ^ 32 + val.toNat) ∧
    (s.status.f = false → off + 4 ≤ 512 → ∃ t, exec (.setu32be off val) s = .next t ∧
      bufByte t off = val.extractLsb' 24 8 ∧ bufByte t (off + 1) = val.extractLsb' 16 8 ∧
      bufByte t (off + 2) = val.extractLsb' 8 8 ∧ bufByte t (off + 3) = val.extractLsb' 0 8 ∧
      StoresOnly off 4 s t ∧ t.k = s.k + 1) ∧
    (s.status.f = false → 509 ≤ off →
      exec (.setu32be off val) s = .next (faultRecorded 4 (encode (.setu32be off val)) s))

/-- 41_set.md R145. -/
def Obligations.SetU32LittleEndianStores : Prop :=
  ∀ (off : Nat) (val : Word32) (s : State),
    HasWord (.setu32le off val) (0x2280000000000000 + off * 2 ^ 32 + val.toNat) ∧
    (s.status.f = false → off + 4 ≤ 512 → ∃ t, exec (.setu32le off val) s = .next t ∧
      bufByte t off = val.extractLsb' 0 8 ∧ bufByte t (off + 1) = val.extractLsb' 8 8 ∧
      bufByte t (off + 2) = val.extractLsb' 16 8 ∧ bufByte t (off + 3) = val.extractLsb' 24 8 ∧
      StoresOnly off 4 s t ∧ t.k = s.k + 1) ∧
    (s.status.f = false → 509 ≤ off →
      exec (.setu32le off val) s = .next (faultRecorded 4 (encode (.setu32le off val)) s))

/-- The wide stores are composed of the narrow ones, in every part of the state but the host's position (41_set.md, the
composition laws, which the spec marks derived). -/
def Obligations.SetsCompose : Prop :=
  ∀ (off : Nat) (s : State), s.status.f = false →
    (∀ v : Half, off + 2 ≤ 512 →
      (∃ t u v', exec (.setu8 off (v.extractLsb' 8 8)) s = .next t ∧
        exec (.setu8 (off + 1) (v.extractLsb' 0 8)) t = .next u ∧
        exec (.setu16be off v) s = .next v' ∧ v' = { u with k := s.k + 1 }) ∧
      (∃ t u v', exec (.setu8 off (v.extractLsb' 0 8)) s = .next t ∧
        exec (.setu8 (off + 1) (v.extractLsb' 8 8)) t = .next u ∧
        exec (.setu16le off v) s = .next v' ∧ v' = { u with k := s.k + 1 })) ∧
    (∀ v : Word32, off + 4 ≤ 512 →
      (∃ t u v', exec (.setu16be off (v.extractLsb' 16 16)) s = .next t ∧
        exec (.setu16be (off + 2) (v.extractLsb' 0 16)) t = .next u ∧
        exec (.setu32be off v) s = .next v' ∧ v' = { u with k := s.k + 1 }) ∧
      (∃ t u v', exec (.setu16le off (v.extractLsb' 0 16)) s = .next t ∧
        exec (.setu16le (off + 2) (v.extractLsb' 16 16)) t = .next u ∧
        exec (.setu32le off v) s = .next v' ∧ v' = { u with k := s.k + 1 }))

/-- A GET after the SET of the same width, order and offset gives the value stored, zero-extended (20_memory.md section 7,
marked derived). -/
def Obligations.GetAfterSetGivesTheValue : Prop :=
  ∀ (off : Nat) (s : State), s.status.f = false →
    (∀ v : Byte, off + 1 ≤ 512 → ∃ t u, exec (.setu8 off v) s = .next t ∧ exec (.getu8 off) t = .next u ∧
      u.res = v.setWidth 32) ∧
    (∀ v : Half, off + 2 ≤ 512 →
      (∃ t u, exec (.setu16be off v) s = .next t ∧ exec (.getu16be off) t = .next u ∧ u.res = v.setWidth 32) ∧
      (∃ t u, exec (.setu16le off v) s = .next t ∧ exec (.getu16le off) t = .next u ∧ u.res = v.setWidth 32)) ∧
    (∀ v : Word32, off + 4 ≤ 512 →
      (∃ t u, exec (.setu32be off v) s = .next t ∧ exec (.getu32be off) t = .next u ∧ u.res = v) ∧
      (∃ t u, exec (.setu32le off v) s = .next t ∧ exec (.getu32le off) t = .next u ∧ u.res = v))

/-- 20_memory.md R71: issuing a command a second time changes nothing but the host's position: reads have no side effect,
writes are idempotent. -/
def Obligations.SecondIssueChangesNothing : Prop :=
  ∀ (i : Instr) (s t : State), s.status.f = false → exec i s = .next t → t.status.f = false →
    exec i t = .next { t with k := t.k + 1 }

/-! ## GETSTR -/

/-- 42_getstr.md R161, R162: the field is copied, zeros fill `SB`, `SLEN` is what is left after the longest run of 0x20 at
the right end is removed. -/
def Obligations.GetstrReadsAndTrims : Prop :=
  ∀ (off len : Nat) (s : State),
    HasWord (.getstr off len) (0x3000000000000000 + len * 2 ^ 42 + off * 2 ^ 32) ∧
    (s.status.f = false → len ≤ 16 → off + len ≤ 512 → ∃ t, exec (.getstr off len) s = .next t ∧
      (∀ i : Fin 16, t.sb[i] = if i.val < len then bufByte s (off + i.val) else 0) ∧
      t.slen.toNat ≤ len ∧
      (∀ i, t.slen.toNat ≤ i → i < len → bufByte s (off + i) = 0x20) ∧
      (∀ i, t.slen.toNat = i + 1 → bufByte s (off + i) ≠ 0x20) ∧
      t = { s with sb := t.sb, slen := t.slen, k := s.k + 1 }) ∧
    (s.status.f = false → 16 < len →
      exec (.getstr off len) s = .next (faultRecorded 2 (encode (.getstr off len)) s)) ∧
    (s.status.f = false → len ≤ 16 → 512 < off + len →
      exec (.getstr off len) s = .next (faultRecorded 4 (encode (.getstr off len)) s))

/-- For every trim set without 0x4D, 0x47 and 0x45, the trimmed 3-byte field is a legal tag exactly if the raw field is
(44_punpk.md section on trimming, marked derived; the trim set is a parameter, log 8). -/
def Obligations.TrimmingCannotChangeATag : Prop :=
  ∀ (pad : Byte → Bool) (s : State) (a : Nat), pad 0x4D = false → pad 0x47 = false → pad 0x45 = false →
    ∀ tag ∈ [[0x47#8, 0x45#8, 0x4D#8], [0x42#8, 0x47#8, 0x4D#8], [0x58#8, 0x47#8, 0x4D#8]],
      ((List.range (trimmedLength pad s a 3)).map (fun i => bufByte s (a + i)) = tag ↔
        (List.range 3).map (fun i => bufByte s (a + i)) = tag)

/-! ## CSUM -/

/-- 43_csum.md R171, R173: the big-endian word sum modulo 65536, `X`, and the two faults, `OddLen` first. -/
def Obligations.CsumBigEndianSums : Prop :=
  ∀ (off len : Nat) (s : State),
    HasWord (.csumbe off len) (0x4000000000000000 + len * 2 ^ 42 + off * 2 ^ 32) ∧
    (s.status.f = false → len % 2 = 0 → off + len ≤ 512 → ∃ t, exec (.csumbe off len) s = .next t ∧
      t.sum.toNat = ((List.range (len / 2)).map fun i => big16 s (off + 2 * i)).sum % 65536 ∧
      (t.status.x = true ↔ t.sum.toNat = 0x1234) ∧
      t = { s with sum := t.sum, status := { s.status with x := t.status.x }, k := s.k + 1 }) ∧
    (s.status.f = false → len % 2 = 1 →
      exec (.csumbe off len) s = .next (faultRecorded 3 (encode (.csumbe off len)) s)) ∧
    (s.status.f = false → len % 2 = 0 → 512 < off + len →
      exec (.csumbe off len) s = .next (faultRecorded 4 (encode (.csumbe off len)) s))

/-- 43_csum.md R172: the little-endian word sum modulo 65536, `X`, and the two faults, `OddLen` first. -/
def Obligations.CsumLittleEndianSums : Prop :=
  ∀ (off len : Nat) (s : State),
    HasWord (.csumle off len) (0x4080000000000000 + len * 2 ^ 42 + off * 2 ^ 32) ∧
    (s.status.f = false → len % 2 = 0 → off + len ≤ 512 → ∃ t, exec (.csumle off len) s = .next t ∧
      t.sum.toNat = ((List.range (len / 2)).map fun i => little16 s (off + 2 * i)).sum % 65536 ∧
      (t.status.x = true ↔ t.sum.toNat = 0x1234) ∧
      t = { s with sum := t.sum, status := { s.status with x := t.status.x }, k := s.k + 1 }) ∧
    (s.status.f = false → len % 2 = 1 →
      exec (.csumle off len) s = .next (faultRecorded 3 (encode (.csumle off len)) s)) ∧
    (s.status.f = false → len % 2 = 0 → 512 < off + len →
      exec (.csumle off len) s = .next (faultRecorded 4 (encode (.csumle off len)) s))

/-- The sums by the bytes at even and at odd positions: `256·E + O` and `E + 256·O` modulo 65536 (43_csum.md, the laws, which
the spec marks derived). -/
def Obligations.CsumByEvenAndOddBytes : Prop :=
  ∀ (off len E O : Nat) (s : State), s.status.f = false → len % 2 = 0 → off + len ≤ 512 →
    E = ((List.range (len / 2)).map fun i => (bufByte s (off + 2 * i)).toNat).sum →
    O = ((List.range (len / 2)).map fun i => (bufByte s (off + 2 * i + 1)).toNat).sum →
    ∃ t u, exec (.csumbe off len) s = .next t ∧ exec (.csumle off len) s = .next u ∧
      t.sum.toNat = (256 * E + O) % 65536 ∧ u.sum.toNat = (E + 256 * O) % 65536

/-- Permuting whole words of the range leaves both sums unchanged (43_csum.md, law (a), marked derived). -/
def Obligations.CsumIgnoresWordOrder : Prop :=
  ∀ (off len : Nat) (s t : State) (p : Equiv.Perm (Fin (len / 2))),
    s.status.f = false → t.status.f = false → len % 2 = 0 → off + len ≤ 512 →
    (∀ i : Fin (len / 2), bufByte t (off + 2 * i.val) = bufByte s (off + 2 * (p i).val) ∧
      bufByte t (off + 2 * i.val + 1) = bufByte s (off + 2 * (p i).val + 1)) →
    ∃ s1 t1 s2 t2, exec (.csumbe off len) s = .next s1 ∧ exec (.csumbe off len) t = .next t1 ∧ s1.sum = t1.sum ∧
      exec (.csumle off len) s = .next s2 ∧ exec (.csumle off len) t = .next t2 ∧ s2.sum = t2.sum

/-- Exchanging two bytes of the range changes the big-endian sum exactly if they differ and one is at an even, the other at
an odd position (43_csum.md, laws (b) and (c), marked derived). -/
def Obligations.CsumSeesByteExchange : Prop :=
  ∀ (off len i j : Nat) (s t : State),
    s.status.f = false → t.status.f = false → len % 2 = 0 → off + len ≤ 512 → i < len → j < len →
    bufByte t (off + i) = bufByte s (off + j) → bufByte t (off + j) = bufByte s (off + i) →
    (∀ n, n < len → n ≠ i → n ≠ j → bufByte t (off + n) = bufByte s (off + n)) →
    ∃ s1 t1, exec (.csumbe off len) s = .next s1 ∧ exec (.csumbe off len) t = .next t1 ∧
      (i % 2 = j % 2 → s1.sum = t1.sum) ∧
      (i % 2 ≠ j % 2 → (s1.sum = t1.sum ↔ bufByte s (off + i) = bufByte s (off + j)))

/-- Storing `0x1234 - s` at 0x1FE, `s` the sum of the first 510 bytes, makes the sector executable (43_csum.md, the
procedure for it, marked derived). -/
def Obligations.BalancingWordMakesExecutable : Prop :=
  ∀ s : State, s.status.f = false → ∃ t u v,
    exec (.csumbe 0 510) s = .next t ∧ exec (.setu16be 0x1FE (0x1234 - t.sum)) t = .next u ∧
    exec csumsec u = .next v ∧ v.sum = 0x1234 ∧ v.status.x = true

/-! ## PUNPK -/

/-- 44_punpk.md R186 with the flags of 10_state.md R35 to R39: every register and flag PUNPK writes, and its two faults,
`Operand` first. -/
def Obligations.PunpkUnpacksTheSlot : Prop :=
  ∀ (off num : Nat) (s : State),
    HasWord (.punpk off num) (0x5000000000000000 + num * 2 ^ 42 + off * 2 ^ 32) ∧
    (s.status.f = false → num ≤ 11 → off + 12 ≤ 512 → ∃ t, exec (.punpk off num) s = .next t ∧
      t.pnum.toNat = num ∧ t.pflags = bufByte s off ∧
      t.ptype = bufByte s (off + 1) ++ bufByte s (off + 2) ++ bufByte s (off + 3) ∧
      t.pstart.toNat = big32 s (off + 4) * 512 ∧ t.plen.toNat = big32 s (off + 8) * 512 ∧ t.powner = 0 ∧
      t.status.pa = t.pflags.getLsbD 0 ∧ t.status.pb = t.pflags.getLsbD 7 ∧
      (t.status.px = true ↔ t.ptype = 0x58474D) ∧
      (t.status.pv = true ↔ t.pflags &&& 0x7E = 0 ∧
        (t.ptype = 0x47454D ∨ t.ptype = 0x42474D ∨ t.ptype = 0x58474D)) ∧
      (t.status.pr = true ↔ t.status.pv = true ∧ t.status.pa = true ∧ t.status.px = false) ∧
      WritesOnly s t (.punpk off num) ∧ t.k = s.k + 1) ∧
    (s.status.f = false → 11 < num →
      exec (.punpk off num) s = .next (faultRecorded 2 (encode (.punpk off num)) s)) ∧
    (s.status.f = false → num ≤ 11 → 500 < off →
      exec (.punpk off num) s = .next (faultRecorded 4 (encode (.punpk off num)) s))

/-- The verdict of PUNPK for every slot (44_punpk.md, the verdict table, marked derived), and the four flag values that
can be valid. -/
def Obligations.PunpkVerdicts : Prop :=
  ∀ (off num : Nat) (s t : State), s.status.f = false → exec (.punpk off num) s = .next t → t.status.f = false →
    (t.ptype = 0x47454D ∨ t.ptype = 0x42474D → t.status.px = false ∧
      (t.status.pv = true ↔ t.pflags.toNat ∈ [0x00, 0x01, 0x80, 0x81]) ∧
      (t.status.pr = true ↔ t.pflags.toNat ∈ [0x01, 0x81])) ∧
    (t.ptype = 0x58474D → t.status.px = true ∧ t.status.pr = false ∧
      (t.status.pv = true ↔ t.pflags.toNat ∈ [0x00, 0x01, 0x80, 0x81])) ∧
    (t.ptype ∉ [0x47454D#24, 0x42474D#24, 0x58474D#24] →
      t.status.px = false ∧ t.status.pv = false ∧ t.status.pr = false) ∧
    (t.status.pa = true ↔ t.pflags.toNat % 2 = 1) ∧ (t.status.pb = true ↔ 128 ≤ t.pflags.toNat)

/-- 44_punpk.md R190: `PSTART` and `PLEN` are the sector counts times 512, exactly: their outer bits are 0, and shifting
right by 9 recovers the counts. -/
def Obligations.PunpkByteQuantitiesAreExact : Prop :=
  ∀ (off num : Nat) (s t : State), s.status.f = false → exec (.punpk off num) s = .next t → t.status.f = false →
    t.pstart.toNat = big32 s (off + 4) * 512 ∧ t.plen.toNat = big32 s (off + 8) * 512 ∧
    t.pstart.toNat ≤ 0x1FFFFFFFE00 ∧ t.plen.toNat ≤ 0x1FFFFFFFE00 ∧
    t.pstart.extractLsb' 41 23 = 0 ∧ t.pstart.extractLsb' 0 9 = 0 ∧
    t.plen.extractLsb' 41 23 = 0 ∧ t.plen.extractLsb' 0 9 = 0 ∧
    (t.pstart >>> 9).toNat = big32 s (off + 4) ∧ (t.plen >>> 9).toNat = big32 s (off + 8)

/-- PUNPK's registers are what GETU8, GETSTR and GETU32.BE read from the slot (44_punpk.md, marked derived). -/
def Obligations.PunpkAgreesWithTheGets : Prop :=
  ∀ (off num : Nat) (s : State), s.status.f = false → num ≤ 11 → off + 12 ≤ 512 →
    ∃ p f y a l, exec (.punpk off num) s = .next p ∧ exec (.getu8 off) s = .next f ∧
      exec (.getstr (off + 1) 3) s = .next y ∧ exec (.getu32be (off + 4)) s = .next a ∧
      exec (.getu32be (off + 8)) s = .next l ∧
      p.pflags = f.res.extractLsb' 0 8 ∧ p.ptype = y.sb[0] ++ y.sb[1] ++ y.sb[2] ∧
      p.pstart.toNat = a.res.toNat * 512 ∧ p.plen.toNat = l.res.toNat * 512 ∧
      p.res = s.res ∧ p.sb = s.sb ∧ p.slen = s.slen

/-- What the host computes from the partition registers after a PUNPK (10_state.md section 9): the owner offset is chosen by
`PX`, the extent is the length, and the length is whole sectors. -/
def Obligations.HostExtentIsTheLength : Prop :=
  ∀ (off num xgm base owner : Nat) (s t : State),
    s.status.f = false → exec (.punpk off num) s = .next t → t.status.f = false →
    ownerOffset t xgm base = (if t.ptype = 0x58474D then xgm else base) ∧
    absoluteStart t owner = owner + big32 s (off + 4) * 512 ∧
    absoluteEnd t owner - absoluteStart t owner = big32 s (off + 8) * 512 ∧
    (absoluteEnd t owner - absoluteStart t owner) % 512 = 0

/-- The commands the host issues on a root sector, a boot sector and an MBR all retire: no one of them faults, whatever
`BUF` holds (20_memory.md section 6, the call sites and the slot addresses). -/
def Obligations.HostCallSitesRetire : Prop :=
  ∀ s : State, s.status.f = false →
    (∀ i ∈ rootSectorCalls ++ bootSectorCalls ++ mbrSignatureCalls,
      ∃ t, exec i s = .next t ∧ t.status.f = false ∧ t.k = s.k + 1) ∧
    (∀ k flags type start count, k ≤ 3 → ∀ i ∈ mbrEntryCalls k flags type start count,
      ∃ t, exec i s = .next t ∧ t.status.f = false ∧ t.k = s.k + 1)

/-! ## The whole machine -/

/-- 10_state.md R42, R43: a command that retires changes nothing outside its write set, and one that faults writes exactly
`F`, `FC` and `FCMD`. The host's position advances by one in the first case. -/
def Obligations.CommandsKeepTheirWriteSets : Prop :=
  ∀ (i : Instr) (s t : State), s.status.f = false → exec i s = .next t →
    (t.status.f = false → WritesOnly s t i ∧ t.k = s.k + 1) ∧
    (t.status.f = true → t = faultRecorded t.status.fc (encode i) s)

/-- Only a SET that retires, the buffer port's write and nothing else changes a byte of `BUF` (20_memory.md section 7, marked
derived): no other step does, whatever is issued. -/
def Obligations.OnlyStoresChangeBuf : Prop :=
  ∀ (s t : State), step s = .next t →
    (∀ a b rest, s.moves ≠ .writeBuf a b :: rest) →
    (∀ w rest, s.moves = .issue w :: rest →
      (w.extractLsb' 56 8).toNat ∉ [0x20, 0x21, 0x22] ∨ s.status.f = true ∨ t.status.f = true) →
    ∀ a, bufByte t a = bufByte s a

/-- What a command writes depends on the command and the bytes it touches alone: no command reads a result register, a flag,
the position or any other byte (10_state.md section 3, 20_memory.md section 4). -/
def Obligations.ResultsDependOnTouchedBytesAlone : Prop :=
  ∀ (i : Instr) (s s' t t' : State), s.status.f = false → s'.status.f = false →
    (∀ a, (touched i).1 ≤ a → a < (touched i).1 + (touched i).2 → bufByte s a = bufByte s' a) →
    exec i s = .next t → exec i s' = .next t' → t.status.f = false → SameWritten t t' i

/-- There is no hidden state (10_state.md section 7): two machines the host can't tell apart, about to be driven alike,
answer alike after every step. In particular the list that holds `BUF` is never seen but through its bytes (log 2). The pending moves and the
replies compared are the model's form of the host (log 3, log 4). -/
def Obligations.NoHiddenState : Prop :=
  ∀ s t s' t' : State, SameView s t → s.moves = t.moves → s.k = t.k → s.replies = t.replies →
    step s = .next s' → step t = .next t' →
    SameView s' t' ∧ s'.moves = t'.moves ∧ s'.k = t'.k ∧ s'.replies = t'.replies

/-- Every step keeps the relations between the registers that the spec states, from every state that has them (the canonical
form of `BUF` among them is log 2). -/
def Obligations.EveryStepKeepsTheInvariant : Prop :=
  ∀ s t : State, Inv s → step s = .next t → Inv t

/-- The state after reset has those relations. -/
def Obligations.ResetHasTheInvariant : Prop :=
  Inv State.reset
end

