-- ==== Sys2Proof/Laws/State.lean ====
section
/-! SUPPORT. One lemma per field and update of the state: no later proof unfolds a record update. -/

namespace Sys2Proof.Machine

@[simp] theorem setRes_buf (v : Word32) (s : State) :
    (setRes v s).buf = s.buf := rfl
@[simp] theorem setRes_res (v : Word32) (s : State) :
    (setRes v s).res = v := rfl
@[simp] theorem setRes_sum (v : Word32) (s : State) :
    (setRes v s).sum = s.sum := rfl
@[simp] theorem setRes_slen (v : Word32) (s : State) :
    (setRes v s).slen = s.slen := rfl
@[simp] theorem setRes_sb (v : Word32) (s : State) :
    (setRes v s).sb = s.sb := rfl
@[simp] theorem setRes_pnum (v : Word32) (s : State) :
    (setRes v s).pnum = s.pnum := rfl
@[simp] theorem setRes_pflags (v : Word32) (s : State) :
    (setRes v s).pflags = s.pflags := rfl
@[simp] theorem setRes_ptype (v : Word32) (s : State) :
    (setRes v s).ptype = s.ptype := rfl
@[simp] theorem setRes_pstart (v : Word32) (s : State) :
    (setRes v s).pstart = s.pstart := rfl
@[simp] theorem setRes_plen (v : Word32) (s : State) :
    (setRes v s).plen = s.plen := rfl
@[simp] theorem setRes_powner (v : Word32) (s : State) :
    (setRes v s).powner = s.powner := rfl
@[simp] theorem setRes_status (v : Word32) (s : State) :
    (setRes v s).status = s.status := rfl
@[simp] theorem setRes_fcmd (v : Word32) (s : State) :
    (setRes v s).fcmd = s.fcmd := rfl
@[simp] theorem setRes_k (v : Word32) (s : State) :
    (setRes v s).k = s.k := rfl
@[simp] theorem setRes_moves (v : Word32) (s : State) :
    (setRes v s).moves = s.moves := rfl
@[simp] theorem setRes_replies (v : Word32) (s : State) :
    (setRes v s).replies = s.replies := rfl

@[simp] theorem setRes_bufByte (v : Word32) (s : State) (a : Nat) :
    bufByte (setRes v s) a = bufByte s a := rfl

@[simp] theorem setString_buf (sb : Vector Byte 16) (n : BitVec 5) (s : State) :
    (setString sb n s).buf = s.buf := rfl
@[simp] theorem setString_res (sb : Vector Byte 16) (n : BitVec 5) (s : State) :
    (setString sb n s).res = s.res := rfl
@[simp] theorem setString_sum (sb : Vector Byte 16) (n : BitVec 5) (s : State) :
    (setString sb n s).sum = s.sum := rfl
@[simp] theorem setString_slen (sb : Vector Byte 16) (n : BitVec 5) (s : State) :
    (setString sb n s).slen = n := rfl
@[simp] theorem setString_sb (sb : Vector Byte 16) (n : BitVec 5) (s : State) :
    (setString sb n s).sb = sb := rfl
@[simp] theorem setString_pnum (sb : Vector Byte 16) (n : BitVec 5) (s : State) :
    (setString sb n s).pnum = s.pnum := rfl
@[simp] theorem setString_pflags (sb : Vector Byte 16) (n : BitVec 5) (s : State) :
    (setString sb n s).pflags = s.pflags := rfl
@[simp] theorem setString_ptype (sb : Vector Byte 16) (n : BitVec 5) (s : State) :
    (setString sb n s).ptype = s.ptype := rfl
@[simp] theorem setString_pstart (sb : Vector Byte 16) (n : BitVec 5) (s : State) :
    (setString sb n s).pstart = s.pstart := rfl
@[simp] theorem setString_plen (sb : Vector Byte 16) (n : BitVec 5) (s : State) :
    (setString sb n s).plen = s.plen := rfl
@[simp] theorem setString_powner (sb : Vector Byte 16) (n : BitVec 5) (s : State) :
    (setString sb n s).powner = s.powner := rfl
@[simp] theorem setString_status (sb : Vector Byte 16) (n : BitVec 5) (s : State) :
    (setString sb n s).status = s.status := rfl
@[simp] theorem setString_fcmd (sb : Vector Byte 16) (n : BitVec 5) (s : State) :
    (setString sb n s).fcmd = s.fcmd := rfl
@[simp] theorem setString_k (sb : Vector Byte 16) (n : BitVec 5) (s : State) :
    (setString sb n s).k = s.k := rfl
@[simp] theorem setString_moves (sb : Vector Byte 16) (n : BitVec 5) (s : State) :
    (setString sb n s).moves = s.moves := rfl
@[simp] theorem setString_replies (sb : Vector Byte 16) (n : BitVec 5) (s : State) :
    (setString sb n s).replies = s.replies := rfl

@[simp] theorem setString_bufByte (sb : Vector Byte 16) (n : BitVec 5) (s : State) (a : Nat) :
    bufByte (setString sb n s) a = bufByte s a := rfl

@[simp] theorem setSum_buf (v : Half) (x : Bool) (s : State) :
    (setSum v x s).buf = s.buf := rfl
@[simp] theorem setSum_res (v : Half) (x : Bool) (s : State) :
    (setSum v x s).res = s.res := rfl
@[simp] theorem setSum_sum (v : Half) (x : Bool) (s : State) :
    (setSum v x s).sum = v := rfl
@[simp] theorem setSum_slen (v : Half) (x : Bool) (s : State) :
    (setSum v x s).slen = s.slen := rfl
@[simp] theorem setSum_sb (v : Half) (x : Bool) (s : State) :
    (setSum v x s).sb = s.sb := rfl
@[simp] theorem setSum_pnum (v : Half) (x : Bool) (s : State) :
    (setSum v x s).pnum = s.pnum := rfl
@[simp] theorem setSum_pflags (v : Half) (x : Bool) (s : State) :
    (setSum v x s).pflags = s.pflags := rfl
@[simp] theorem setSum_ptype (v : Half) (x : Bool) (s : State) :
    (setSum v x s).ptype = s.ptype := rfl
@[simp] theorem setSum_pstart (v : Half) (x : Bool) (s : State) :
    (setSum v x s).pstart = s.pstart := rfl
@[simp] theorem setSum_plen (v : Half) (x : Bool) (s : State) :
    (setSum v x s).plen = s.plen := rfl
@[simp] theorem setSum_powner (v : Half) (x : Bool) (s : State) :
    (setSum v x s).powner = s.powner := rfl
@[simp] theorem setSum_status (v : Half) (x : Bool) (s : State) :
    (setSum v x s).status = { s.status with x := x } := rfl
@[simp] theorem setSum_fcmd (v : Half) (x : Bool) (s : State) :
    (setSum v x s).fcmd = s.fcmd := rfl
@[simp] theorem setSum_k (v : Half) (x : Bool) (s : State) :
    (setSum v x s).k = s.k := rfl
@[simp] theorem setSum_moves (v : Half) (x : Bool) (s : State) :
    (setSum v x s).moves = s.moves := rfl
@[simp] theorem setSum_replies (v : Half) (x : Bool) (s : State) :
    (setSum v x s).replies = s.replies := rfl

@[simp] theorem setSum_bufByte (v : Half) (x : Bool) (s : State) (a : Nat) :
    bufByte (setSum v x s) a = bufByte s a := rfl

@[simp] theorem setPartition_buf (num : BitVec 4) (f : Byte) (t : Tag) (st ln : Word32) (s : State) :
    (setPartition num f t st ln s).buf = s.buf := rfl
@[simp] theorem setPartition_res (num : BitVec 4) (f : Byte) (t : Tag) (st ln : Word32) (s : State) :
    (setPartition num f t st ln s).res = s.res := rfl
@[simp] theorem setPartition_sum (num : BitVec 4) (f : Byte) (t : Tag) (st ln : Word32) (s : State) :
    (setPartition num f t st ln s).sum = s.sum := rfl
@[simp] theorem setPartition_slen (num : BitVec 4) (f : Byte) (t : Tag) (st ln : Word32) (s : State) :
    (setPartition num f t st ln s).slen = s.slen := rfl
@[simp] theorem setPartition_sb (num : BitVec 4) (f : Byte) (t : Tag) (st ln : Word32) (s : State) :
    (setPartition num f t st ln s).sb = s.sb := rfl
@[simp] theorem setPartition_pnum (num : BitVec 4) (f : Byte) (t : Tag) (st ln : Word32) (s : State) :
    (setPartition num f t st ln s).pnum = num := rfl
@[simp] theorem setPartition_pflags (num : BitVec 4) (f : Byte) (t : Tag) (st ln : Word32) (s : State) :
    (setPartition num f t st ln s).pflags = f := rfl
@[simp] theorem setPartition_ptype (num : BitVec 4) (f : Byte) (t : Tag) (st ln : Word32) (s : State) :
    (setPartition num f t st ln s).ptype = t := rfl
@[simp] theorem setPartition_pstart (num : BitVec 4) (f : Byte) (t : Tag) (st ln : Word32) (s : State) :
    (setPartition num f t st ln s).pstart = sectorBytes st := rfl
@[simp] theorem setPartition_plen (num : BitVec 4) (f : Byte) (t : Tag) (st ln : Word32) (s : State) :
    (setPartition num f t st ln s).plen = sectorBytes ln := rfl
@[simp] theorem setPartition_powner (num : BitVec 4) (f : Byte) (t : Tag) (st ln : Word32) (s : State) :
    (setPartition num f t st ln s).powner = 0 := rfl
@[simp] theorem setPartition_status (num : BitVec 4) (f : Byte) (t : Tag) (st ln : Word32) (s : State) :
    (setPartition num f t st ln s).status = { s.status with
      pv := flagPV f t, pa := flagPA f, pb := flagPB f, px := flagPX t, pr := flagPR f t } := rfl
@[simp] theorem setPartition_fcmd (num : BitVec 4) (f : Byte) (t : Tag) (st ln : Word32) (s : State) :
    (setPartition num f t st ln s).fcmd = s.fcmd := rfl
@[simp] theorem setPartition_k (num : BitVec 4) (f : Byte) (t : Tag) (st ln : Word32) (s : State) :
    (setPartition num f t st ln s).k = s.k := rfl
@[simp] theorem setPartition_moves (num : BitVec 4) (f : Byte) (t : Tag) (st ln : Word32) (s : State) :
    (setPartition num f t st ln s).moves = s.moves := rfl
@[simp] theorem setPartition_replies (num : BitVec 4) (f : Byte) (t : Tag) (st ln : Word32) (s : State) :
    (setPartition num f t st ln s).replies = s.replies := rfl

@[simp] theorem setPartition_bufByte (num : BitVec 4) (f : Byte) (t : Tag) (st ln : Word32) (s : State) (a : Nat) :
    bufByte (setPartition num f t st ln s) a = bufByte s a := rfl

@[simp] theorem takeFault_buf (c : Cause) (w : Command) (s : State) :
    (takeFault c w s).buf = s.buf := rfl
@[simp] theorem takeFault_res (c : Cause) (w : Command) (s : State) :
    (takeFault c w s).res = s.res := rfl
@[simp] theorem takeFault_sum (c : Cause) (w : Command) (s : State) :
    (takeFault c w s).sum = s.sum := rfl
@[simp] theorem takeFault_slen (c : Cause) (w : Command) (s : State) :
    (takeFault c w s).slen = s.slen := rfl
@[simp] theorem takeFault_sb (c : Cause) (w : Command) (s : State) :
    (takeFault c w s).sb = s.sb := rfl
@[simp] theorem takeFault_pnum (c : Cause) (w : Command) (s : State) :
    (takeFault c w s).pnum = s.pnum := rfl
@[simp] theorem takeFault_pflags (c : Cause) (w : Command) (s : State) :
    (takeFault c w s).pflags = s.pflags := rfl
@[simp] theorem takeFault_ptype (c : Cause) (w : Command) (s : State) :
    (takeFault c w s).ptype = s.ptype := rfl
@[simp] theorem takeFault_pstart (c : Cause) (w : Command) (s : State) :
    (takeFault c w s).pstart = s.pstart := rfl
@[simp] theorem takeFault_plen (c : Cause) (w : Command) (s : State) :
    (takeFault c w s).plen = s.plen := rfl
@[simp] theorem takeFault_powner (c : Cause) (w : Command) (s : State) :
    (takeFault c w s).powner = s.powner := rfl
@[simp] theorem takeFault_status (c : Cause) (w : Command) (s : State) :
    (takeFault c w s).status = { s.status with f := true, fc := causeCode c } := rfl
@[simp] theorem takeFault_fcmd (c : Cause) (w : Command) (s : State) :
    (takeFault c w s).fcmd = w := rfl
@[simp] theorem takeFault_k (c : Cause) (w : Command) (s : State) :
    (takeFault c w s).k = s.k := rfl
@[simp] theorem takeFault_moves (c : Cause) (w : Command) (s : State) :
    (takeFault c w s).moves = s.moves := rfl
@[simp] theorem takeFault_replies (c : Cause) (w : Command) (s : State) :
    (takeFault c w s).replies = s.replies := rfl

@[simp] theorem takeFault_bufByte (c : Cause) (w : Command) (s : State) (a : Nat) :
    bufByte (takeFault c w s) a = bufByte s a := rfl

@[simp] theorem retire_buf (s : State) :
    (retire s).buf = s.buf := rfl
@[simp] theorem retire_res (s : State) :
    (retire s).res = s.res := rfl
@[simp] theorem retire_sum (s : State) :
    (retire s).sum = s.sum := rfl
@[simp] theorem retire_slen (s : State) :
    (retire s).slen = s.slen := rfl
@[simp] theorem retire_sb (s : State) :
    (retire s).sb = s.sb := rfl
@[simp] theorem retire_pnum (s : State) :
    (retire s).pnum = s.pnum := rfl
@[simp] theorem retire_pflags (s : State) :
    (retire s).pflags = s.pflags := rfl
@[simp] theorem retire_ptype (s : State) :
    (retire s).ptype = s.ptype := rfl
@[simp] theorem retire_pstart (s : State) :
    (retire s).pstart = s.pstart := rfl
@[simp] theorem retire_plen (s : State) :
    (retire s).plen = s.plen := rfl
@[simp] theorem retire_powner (s : State) :
    (retire s).powner = s.powner := rfl
@[simp] theorem retire_status (s : State) :
    (retire s).status = s.status := rfl
@[simp] theorem retire_fcmd (s : State) :
    (retire s).fcmd = s.fcmd := rfl
@[simp] theorem retire_k (s : State) :
    (retire s).k = s.k + 1 := rfl
@[simp] theorem retire_moves (s : State) :
    (retire s).moves = s.moves := rfl
@[simp] theorem retire_replies (s : State) :
    (retire s).replies = s.replies := rfl

@[simp] theorem retire_bufByte (s : State) (a : Nat) :
    bufByte (retire s) a = bufByte s a := rfl

@[simp] theorem reply_buf (v : BitVec 64) (s : State) :
    (reply v s).buf = s.buf := rfl
@[simp] theorem reply_res (v : BitVec 64) (s : State) :
    (reply v s).res = s.res := rfl
@[simp] theorem reply_sum (v : BitVec 64) (s : State) :
    (reply v s).sum = s.sum := rfl
@[simp] theorem reply_slen (v : BitVec 64) (s : State) :
    (reply v s).slen = s.slen := rfl
@[simp] theorem reply_sb (v : BitVec 64) (s : State) :
    (reply v s).sb = s.sb := rfl
@[simp] theorem reply_pnum (v : BitVec 64) (s : State) :
    (reply v s).pnum = s.pnum := rfl
@[simp] theorem reply_pflags (v : BitVec 64) (s : State) :
    (reply v s).pflags = s.pflags := rfl
@[simp] theorem reply_ptype (v : BitVec 64) (s : State) :
    (reply v s).ptype = s.ptype := rfl
@[simp] theorem reply_pstart (v : BitVec 64) (s : State) :
    (reply v s).pstart = s.pstart := rfl
@[simp] theorem reply_plen (v : BitVec 64) (s : State) :
    (reply v s).plen = s.plen := rfl
@[simp] theorem reply_powner (v : BitVec 64) (s : State) :
    (reply v s).powner = s.powner := rfl
@[simp] theorem reply_status (v : BitVec 64) (s : State) :
    (reply v s).status = s.status := rfl
@[simp] theorem reply_fcmd (v : BitVec 64) (s : State) :
    (reply v s).fcmd = s.fcmd := rfl
@[simp] theorem reply_k (v : BitVec 64) (s : State) :
    (reply v s).k = s.k := rfl
@[simp] theorem reply_moves (v : BitVec 64) (s : State) :
    (reply v s).moves = s.moves := rfl
@[simp] theorem reply_replies (v : BitVec 64) (s : State) :
    (reply v s).replies = v :: s.replies := rfl

@[simp] theorem reply_bufByte (v : BitVec 64) (s : State) (a : Nat) :
    bufByte (reply v s) a = bufByte s a := rfl

@[simp] theorem hostReset_buf (s : State) :
    (hostReset s).buf = s.buf := rfl
@[simp] theorem hostReset_res (s : State) :
    (hostReset s).res = 0 := rfl
@[simp] theorem hostReset_sum (s : State) :
    (hostReset s).sum = 0 := rfl
@[simp] theorem hostReset_slen (s : State) :
    (hostReset s).slen = 0 := rfl
@[simp] theorem hostReset_sb (s : State) :
    (hostReset s).sb = Vector.replicate 16 0 := rfl
@[simp] theorem hostReset_pnum (s : State) :
    (hostReset s).pnum = 0 := rfl
@[simp] theorem hostReset_pflags (s : State) :
    (hostReset s).pflags = 0 := rfl
@[simp] theorem hostReset_ptype (s : State) :
    (hostReset s).ptype = 0 := rfl
@[simp] theorem hostReset_pstart (s : State) :
    (hostReset s).pstart = 0 := rfl
@[simp] theorem hostReset_plen (s : State) :
    (hostReset s).plen = 0 := rfl
@[simp] theorem hostReset_powner (s : State) :
    (hostReset s).powner = 0 := rfl
@[simp] theorem hostReset_status (s : State) :
    (hostReset s).status = Status.reset := rfl
@[simp] theorem hostReset_fcmd (s : State) :
    (hostReset s).fcmd = 0 := rfl
@[simp] theorem hostReset_k (s : State) :
    (hostReset s).k = s.k := rfl
@[simp] theorem hostReset_moves (s : State) :
    (hostReset s).moves = s.moves := rfl
@[simp] theorem hostReset_replies (s : State) :
    (hostReset s).replies = s.replies := rfl

@[simp] theorem hostReset_bufByte (s : State) (a : Nat) :
    bufByte (hostReset s) a = bufByte s a := rfl

/-- `memWrite` changes `BUF` alone. -/
theorem memWrite_eq (bs : List Byte) (s : State) (a : Nat) :
    memWrite s a bs = { s with buf := (memWrite s a bs).buf } := by
  induction bs generalizing s a with
  | nil => rfl
  | cons b bs ih => exact ih _ _

@[simp] theorem memWrite_res (s : State) (a : Nat) (bs : List Byte) :
    (memWrite s a bs).res = s.res := by rw [memWrite_eq]
@[simp] theorem memWrite_sum (s : State) (a : Nat) (bs : List Byte) :
    (memWrite s a bs).sum = s.sum := by rw [memWrite_eq]
@[simp] theorem memWrite_slen (s : State) (a : Nat) (bs : List Byte) :
    (memWrite s a bs).slen = s.slen := by rw [memWrite_eq]
@[simp] theorem memWrite_sb (s : State) (a : Nat) (bs : List Byte) :
    (memWrite s a bs).sb = s.sb := by rw [memWrite_eq]
@[simp] theorem memWrite_pnum (s : State) (a : Nat) (bs : List Byte) :
    (memWrite s a bs).pnum = s.pnum := by rw [memWrite_eq]
@[simp] theorem memWrite_pflags (s : State) (a : Nat) (bs : List Byte) :
    (memWrite s a bs).pflags = s.pflags := by rw [memWrite_eq]
@[simp] theorem memWrite_ptype (s : State) (a : Nat) (bs : List Byte) :
    (memWrite s a bs).ptype = s.ptype := by rw [memWrite_eq]
@[simp] theorem memWrite_pstart (s : State) (a : Nat) (bs : List Byte) :
    (memWrite s a bs).pstart = s.pstart := by rw [memWrite_eq]
@[simp] theorem memWrite_plen (s : State) (a : Nat) (bs : List Byte) :
    (memWrite s a bs).plen = s.plen := by rw [memWrite_eq]
@[simp] theorem memWrite_powner (s : State) (a : Nat) (bs : List Byte) :
    (memWrite s a bs).powner = s.powner := by rw [memWrite_eq]
@[simp] theorem memWrite_status (s : State) (a : Nat) (bs : List Byte) :
    (memWrite s a bs).status = s.status := by rw [memWrite_eq]
@[simp] theorem memWrite_fcmd (s : State) (a : Nat) (bs : List Byte) :
    (memWrite s a bs).fcmd = s.fcmd := by rw [memWrite_eq]
@[simp] theorem memWrite_k (s : State) (a : Nat) (bs : List Byte) :
    (memWrite s a bs).k = s.k := by rw [memWrite_eq]
@[simp] theorem memWrite_moves (s : State) (a : Nat) (bs : List Byte) :
    (memWrite s a bs).moves = s.moves := by rw [memWrite_eq]
@[simp] theorem memWrite_replies (s : State) (a : Nat) (bs : List Byte) :
    (memWrite s a bs).replies = s.replies := by rw [memWrite_eq]

end Sys2Proof.Machine
end

