-- ==== Sys2Proof/Laws/Memory.lean ====
section
/-! SUPPORT. The laws of `BUF`: reading after writing, and that every memory operation keeps the canonical form. -/

namespace Sys2Proof.Machine

theorem Memory.lookup_store_same (m : List Host.Cell) (a : Nat) (b : Byte) :
    Memory.lookup (Memory.store m a b) a = some b := by
  induction m with
  | nil => simp [Memory.store, Memory.lookup]
  | cons c m ih =>
    unfold Memory.store
    split
    · simp [Memory.lookup]
    · split
      · simp [Memory.lookup]
      · rename_i _ h; simp [Memory.lookup, h, ih]

theorem Memory.lookup_store_other (m : List Host.Cell) (a a' : Nat) (b : Byte) (h : a' ≠ a) :
    Memory.lookup (Memory.store m a b) a' = Memory.lookup m a' := by
  induction m with
  | nil => simp [Memory.store, Memory.lookup, h.symm]
  | cons c m ih =>
    unfold Memory.store
    split
    · simp [Memory.lookup, h.symm]
    · split
      · rename_i _ hc; simp [Memory.lookup, hc, h.symm]
      · simp [Memory.lookup, ih]

theorem Memory.risesFrom_store (m : List Host.Cell) (lo a : Nat) (b : Byte)
    (h : Memory.risesFrom lo m = true) (hlo : lo ≤ a) (ha : a < Config.bufSize) :
    Memory.risesFrom lo (Memory.store m a b) = true := by
  induction m generalizing lo with
  | nil => simp [Memory.store, Memory.risesFrom, hlo, ha]
  | cons c m ih =>
    simp only [Memory.risesFrom, Bool.and_eq_true, decide_eq_true_eq] at h
    unfold Memory.store
    split
    · rename_i hc
      simp [Memory.risesFrom, hlo, ha, h.1.2, h.2, hc]
    · split
      · rename_i hc
        subst hc
        simp [Memory.risesFrom, hlo, ha, h.2]
      · simp [Memory.risesFrom, h.1.1, h.1.2]
        exact ih _ h.2 (by omega)

/-- A store inside `BUF` keeps the canonical form. -/
theorem Memory.wf_store (m : List Host.Cell) (a : Nat) (b : Byte) (h : Memory.wf m = true) (ha : a < 512) :
    Memory.wf (Memory.store m a b) = true :=
  Memory.risesFrom_store m 0 a b h (Nat.zero_le a) ha

theorem Memory.wf_reset : Memory.wf State.reset.buf = true := rfl

/-- `MemWrite` inside `BUF` keeps the canonical form. -/
theorem memWrite_wf (bs : List Byte) (s : State) (a : Nat) (h : Memory.wf s.buf = true) (ha : a + bs.length ≤ 512) :
    Memory.wf (memWrite s a bs).buf = true := by
  induction bs generalizing s a with
  | nil => exact h
  | cons b bs ih =>
    rw [List.length_cons] at ha
    exact ih _ _ (Memory.wf_store _ _ _ h (by omega)) (by omega)

theorem bufByte_store_same (s : State) (a : Nat) (b : Byte) :
    bufByte { s with buf := Memory.store s.buf a b } a = b := by
  simp [bufByte, Memory.lookup_store_same]

theorem bufByte_store_other (s : State) (a a' : Nat) (b : Byte) (h : a' ≠ a) :
    bufByte { s with buf := Memory.store s.buf a b } a' = bufByte s a' := by
  simp [bufByte, Memory.lookup_store_other _ _ _ _ h]

/-- `MemWrite` changes no byte outside its range (20_memory.md R82). -/
theorem bufByte_memWrite_outside (bs : List Byte) (s : State) (a a' : Nat) (h : a' < a ∨ a + bs.length ≤ a') :
    bufByte (memWrite s a bs) a' = bufByte s a' := by
  induction bs generalizing s a with
  | nil => rfl
  | cons b bs ih =>
    rw [List.length_cons] at h
    rw [memWrite, ih _ _ (by omega), bufByte_store_other _ _ _ _ (by omega)]

/-- `MemWrite` leaves `L[i]` at `a + i` (00_scope.md R11). -/
theorem bufByte_memWrite_inside (bs : List Byte) (s : State) (a i : Nat) (h : i < bs.length) :
    bufByte (memWrite s a bs) (a + i) = bs[i] := by
  induction bs generalizing s a i with
  | nil => simp at h
  | cons b bs ih =>
    cases i with
    | zero => exact (bufByte_memWrite_outside bs _ (a + 1) a (by omega)).trans (bufByte_store_same s a b)
    | succ i =>
      rw [memWrite, show a + (i + 1) = a + 1 + i by omega]
      exact ih _ _ _ (by simpa using h)

/-- Storing twice at one address leaves the second byte. -/
theorem Memory.store_store (m : List Host.Cell) (a : Nat) (b c : Byte) :
    Memory.store (Memory.store m a b) a c = Memory.store m a c := by
  induction m with
  | nil => simp [Memory.store]
  | cons x m ih =>
    by_cases h1 : a < x.1
    · simp [Memory.store, h1]
    · by_cases h2 : x.1 = a
      · simp [Memory.store, h2]
      · simp [Memory.store, h1, h2, ih]

/-- Stores at two addresses commute: the list depends only on the bytes held (log 2). -/
theorem Memory.store_comm (m : List Host.Cell) (a a' : Nat) (b c : Byte) (h : a ≠ a') :
    Memory.store (Memory.store m a b) a' c = Memory.store (Memory.store m a' c) a b := by
  induction m with
  | nil => simp only [Memory.store]; split_ifs <;> first | omega | rfl
  | cons x m ih =>
    simp only [Memory.store]
    split_ifs <;> simp only [Memory.store] <;> split_ifs <;> first | omega | rfl | simp_all

/-- `MemWrite` of a longer list is two writes. -/
theorem memWrite_append (s : State) (a : Nat) (l m : List Byte) :
    memWrite s a (l ++ m) = memWrite (memWrite s a l) (a + l.length) m := by
  induction l generalizing s a with
  | nil => rfl
  | cons b l ih => simp only [List.cons_append, memWrite, ih, List.length_cons]; congr 1; omega

/-- What `MemWrite` puts into `BUF` depends on `BUF` alone. -/
theorem memWrite_buf_congr (l : List Byte) (s t : State) (a : Nat) (h : s.buf = t.buf) :
    (memWrite s a l).buf = (memWrite t a l).buf := by
  induction l generalizing s t a with
  | nil => exact h
  | cons b l ih => exact ih { s with buf := _ } { t with buf := _ } _ (by simp [h])

end Sys2Proof.Machine
end

