-- ==== Sys2Proof/Laws/Command.lean ====
section
/-! SUPPORT. What one command can do, said once (30_encoding.md R90). -/

namespace Sys2Proof.Machine

theorem runCommand_halted (w : Command) (c : Option Cause) (e : State → State) (s : State) (h : s.status.f = true) :
    runCommand w c e s = .next s := by simp [runCommand, h]

theorem runCommand_fault (w : Command) (c : Cause) (e : State → State) (s : State) (h : s.status.f = false) :
    runCommand w (some c) e s = .next (takeFault c w s) := by simp [runCommand, h]

theorem runCommand_retires (w : Command) (e : State → State) (s : State) (h : s.status.f = false) :
    runCommand w none e s = .next (retire (e s)) := by simp [runCommand, h]

/-- Everything `runCommand` can do: not accepted, a fault taken, or the effect and the command retires. -/
theorem runCommand_cases {w : Command} {c : Option Cause} {e : State → State} {s t : State}
    (h : runCommand w c e s = .next t) :
    (s.status.f = true ∧ t = s) ∨ (∃ d, s.status.f = false ∧ c = some d ∧ t = takeFault d w s) ∨
      (s.status.f = false ∧ c = none ∧ t = retire (e s)) := by
  unfold runCommand at h
  split at h
  · cases h; exact .inl ⟨‹_›, rfl⟩
  · rename_i hf
    have hf : s.status.f = false := by simpa using hf
    cases c with
    | some d => cases h; exact .inr (.inl ⟨d, hf, rfl, rfl⟩)
    | none => cases h; exact .inr (.inr ⟨hf, rfl, rfl⟩)

/-- A command always answers a next state (60_exceptions.md R227). -/
theorem runCommand_next (w : Command) (c : Option Cause) (e : State → State) (s : State) :
    ∃ t, runCommand w c e s = .next t := by
  unfold runCommand
  split
  · exact ⟨_, rfl⟩
  · split <;> exact ⟨_, rfl⟩

theorem boundsCheck_ok {off n : Nat} (h : off + n ≤ 512) : boundsCheck off n = none := if_pos h

theorem boundsCheck_bad {off n : Nat} (h : 512 < off + n) : boundsCheck off n = some .bounds :=
  if_neg (by change ¬ off + n ≤ 512; omega)

theorem operandCheck_ok {v m : Nat} (h : v ≤ m) : operandCheck v m = none := if_pos h

theorem operandCheck_bad {v m : Nat} (h : m < v) : operandCheck v m = some .operand := if_neg (by omega)

theorem oddLenCheck_ok {n : Nat} (h : n % 2 = 0) : oddLenCheck n = none := if_neg (by omega)

theorem oddLenCheck_bad {n : Nat} (h : n % 2 = 1) : oddLenCheck n = some .oddLen := if_pos h

/-- Every command is one `runCommand` on its own word: a check and an effect that depend on the command alone. -/
theorem exec_form (i : Instr) : ∃ c e, ∀ s, exec i s = runCommand (encode i) c e s := by
  cases i <;> exact ⟨_, _, fun _ => rfl⟩

end Sys2Proof.Machine
end

