-- ==== Sys2Proof/Laws/Decode.lean ====
section
/-! SUPPORT. Cutting and joining the fields of a word are inverse (30_encoding.md R91). -/

namespace Sys2Proof

theorem joinFields_toNat (c : Fields) :
    (joinFields c).toNat = c.opc.toNat * 2 ^ 56 + c.e.toNat * 2 ^ 55 + c.rsv.toNat * 2 ^ 52 + c.aux.toNat * 2 ^ 42
      + c.off.toNat * 2 ^ 32 + c.imm.toNat := by
  have h1 := c.opc.isLt; have h2 := c.e.isLt; have h3 := c.rsv.isLt
  have h4 := c.aux.isLt; have h5 := c.off.isLt; have h6 := c.imm.isLt
  unfold joinFields
  rw [BitVec.toNat_ofNat]
  exact Nat.mod_eq_of_lt (by omega)

theorem cutFields_joinFields (c : Fields) : cutFields (joinFields c) = c := by
  have h := joinFields_toNat c
  have h1 := c.opc.isLt; have h2 := c.e.isLt; have h3 := c.rsv.isLt
  have h4 := c.aux.isLt; have h5 := c.off.isLt; have h6 := c.imm.isLt
  cases c
  simp only [cutFields, Fields.mk.injEq]
  refine ⟨?_, ?_, ?_, ?_, ?_, ?_⟩ <;> apply BitVec.eq_of_toNat_eq <;>
    rw [BitVec.extractLsb'_toNat, h, Nat.shiftRight_eq_div_pow] <;> dsimp only at * <;> omega

theorem joinFields_cutFields (w : Command) : joinFields (cutFields w) = w := by
  apply BitVec.eq_of_toNat_eq
  rw [joinFields_toNat]
  have := w.isLt
  simp only [cutFields, BitVec.extractLsb'_toNat, Nat.shiftRight_eq_div_pow]
  omega

end Sys2Proof
end

