-- ==== Sys2Proof/Laws/Words.lean ====
section
/-! SUPPORT. The byte-order primitives as naturals (20_memory.md R62, R63), and that reading undoes writing
(00_scope.md R12). -/

namespace Sys2Proof.Machine

theorem toNat_append (n m : Nat) (a : BitVec n) (b : BitVec m) :
    (a ++ b).toNat = a.toNat * 2 ^ m + b.toNat := by
  rw [BitVec.toNat_append, ← Nat.shiftLeft_add_eq_or_of_lt b.isLt, Nat.shiftLeft_eq]

theorem join16_big_toNat (b0 b1 : Byte) : (join16 .big b0 b1).toNat = b0.toNat * 256 + b1.toNat :=
  toNat_append 8 8 b0 b1

theorem join16_little_toNat (b0 b1 : Byte) : (join16 .little b0 b1).toNat = b0.toNat + b1.toNat * 256 := by
  rw [Nat.add_comm]; exact toNat_append 8 8 b1 b0

theorem join32_big_toNat (b0 b1 b2 b3 : Byte) :
    (join32 .big b0 b1 b2 b3).toNat = b0.toNat * 2 ^ 24 + b1.toNat * 2 ^ 16 + b2.toNat * 2 ^ 8 + b3.toNat := by
  have h : (join32 .big b0 b1 b2 b3).toNat = (b0 ++ b1 ++ b2 ++ b3).toNat := rfl
  rw [h, toNat_append, toNat_append, toNat_append]
  omega

theorem join32_little_toNat (b0 b1 b2 b3 : Byte) :
    (join32 .little b0 b1 b2 b3).toNat = b0.toNat + b1.toNat * 2 ^ 8 + b2.toNat * 2 ^ 16 + b3.toNat * 2 ^ 24 := by
  have h : (join32 .little b0 b1 b2 b3).toNat = (b3 ++ b2 ++ b1 ++ b0).toNat := rfl
  rw [h, toNat_append, toNat_append, toNat_append]
  omega

theorem sectorBytes_toNat (c : Word32) : (sectorBytes c).toNat = c.toNat * 512 := by
  have := c.isLt
  rw [sectorBytes, BitVec.toNat_shiftLeft, BitVec.toNat_setWidth, Nat.shiftLeft_eq]
  change c.toNat % 2 ^ 64 * 2 ^ 9 % 2 ^ 64 = _
  omega

/-- Zero extension keeps the value of whatever fits `RES`. -/
theorem zeroExtend_toNat {n : Nat} (v : BitVec n) (h : n ≤ 32) : (zeroExtend v).toNat = v.toNat :=
  BitVec.toNat_setWidth_of_le h

theorem zeroExtend_eq {n : Nat} (v : BitVec n) : zeroExtend v = v.setWidth 32 := rfl

/-- Joining the bytes of a 16-bit value gives it back (00_scope.md R12). -/
theorem join16_bytes16 (o : ByteOrder) (v : Half) {b0 b1 : Byte} (h : bytes16 o v = [b0, b1]) : join16 o b0 b1 = v := by
  apply BitVec.eq_of_toNat_eq
  have := v.isLt
  cases o <;> simp [bytes16] at h <;> obtain ⟨rfl, rfl⟩ := h
  · rw [join16_big_toNat]; simp only [BitVec.extractLsb'_toNat, Nat.shiftRight_eq_div_pow]; omega
  · rw [join16_little_toNat]; simp only [BitVec.extractLsb'_toNat, Nat.shiftRight_eq_div_pow]; omega

/-- Joining the bytes of a 32-bit value gives it back (00_scope.md R12). -/
theorem join32_bytes32 (o : ByteOrder) (v : Word32) {b0 b1 b2 b3 : Byte} (h : bytes32 o v = [b0, b1, b2, b3]) :
    join32 o b0 b1 b2 b3 = v := by
  apply BitVec.eq_of_toNat_eq
  have := v.isLt
  cases o <;> simp [bytes32] at h <;> obtain ⟨rfl, rfl, rfl, rfl⟩ := h
  · rw [join32_big_toNat]; simp only [BitVec.extractLsb'_toNat, Nat.shiftRight_eq_div_pow]; omega
  · rw [join32_little_toNat]; simp only [BitVec.extractLsb'_toNat, Nat.shiftRight_eq_div_pow]; omega

end Sys2Proof.Machine
end

