-- ==== Sys2Proof/Laws/Operands.lean ====
section
/-! SUPPORT. What the range operations do, said once: the word sum, the trimming, the string field (each reads its range
alone), and the flags. -/

namespace Sys2Proof.Machine

/-- One more word, added modulo `SUM_MOD`: addition of 16-bit values (43_csum.md R171). -/
theorem wordSum_succ (o : ByteOrder) (s : State) (off n : Nat) :
    wordSum o s off (n + 1) = wordSum o s off n + read16 o s (off + 2 * n) := by
  apply BitVec.eq_of_toNat_eq
  rw [wordSum, BitVec.toNat_ofNat, BitVec.toNat_add]
  exact Nat.mod_mod _ _

theorem wordSum_congr (o : ByteOrder) (s t : State) (off n : Nat)
    (h : ∀ a, off ≤ a → a < off + 2 * n → bufByte s a = bufByte t a) : wordSum o s off n = wordSum o t off n := by
  induction n with
  | zero => rfl
  | succ n ih =>
    rw [wordSum_succ, wordSum_succ, ih fun a h1 h2 => h a h1 (by omega), read16, read16, h _ (by omega) (by omega),
      h _ (by omega) (by omega)]

theorem trimmedLength_congr (pad : Byte → Bool) (s t : State) (off n : Nat)
    (h : ∀ a, off ≤ a → a < off + n → bufByte s a = bufByte t a) :
    trimmedLength pad s off n = trimmedLength pad t off n := by
  induction n with
  | zero => rfl
  | succ n ih =>
    rw [trimmedLength, trimmedLength, ih fun a h1 h2 => h a h1 (by omega), h _ (by omega) (by omega)]

theorem stringField_congr (s t : State) (off n : Nat)
    (h : ∀ a, off ≤ a → a < off + n → bufByte s a = bufByte t a) : stringField s off n = stringField t off n := by
  unfold stringField
  congr 1
  funext i
  split
  · exact h _ (by omega) (by omega)
  · rfl

theorem trimmedLength_le (pad : Byte → Bool) (s : State) (off n : Nat) : trimmedLength pad s off n ≤ n := by
  induction n with
  | zero => exact Nat.le_refl _
  | succ n ih => rw [trimmedLength]; split <;> omega

/-- Every byte removed is padding (42_getstr.md R161). -/
theorem trimmedLength_removed (pad : Byte → Bool) (s : State) (off n i : Nat) (h1 : trimmedLength pad s off n ≤ i)
    (h2 : i < n) : pad (bufByte s (off + i)) = true := by
  induction n with
  | zero => omega
  | succ n ih =>
    rw [trimmedLength] at h1
    split at h1
    · by_cases h : i = n
      · subst h; assumption
      · exact ih h1 (by omega)
    · omega

/-- The last byte kept is no padding (42_getstr.md R161). -/
theorem trimmedLength_last (pad : Byte → Bool) (s : State) (off n i : Nat) (h : trimmedLength pad s off n = i + 1) :
    pad (bufByte s (off + i)) = false := by
  induction n with
  | zero => cases h
  | succ n ih =>
    rw [trimmedLength] at h
    split at h
    · exact ih h
    · rename_i hp
      have : n = i := by omega
      subst this
      exact eq_false_of_ne_true hp

theorem isPadding_iff (b : Byte) : isPadding b = true ↔ b = 0x20 := by simp [isPadding, Config.trimSet]

theorem flagX_iff (v : Half) : flagX v = true ↔ v = 0x1234 := by simp [flagX, Config.execSum]

theorem flagPX_iff (t : Tag) : flagPX t = true ↔ t = 0x58474D := by simp [flagPX, Config.tagXgm]

theorem flagPV_iff (f : Byte) (t : Tag) :
    flagPV f t = true ↔ f &&& 0x7E = 0 ∧ (t = 0x47454D ∨ t = 0x42474D ∨ t = 0x58474D) := by
  simp [flagPV, legalTag, Config.tagXgm, Config.tagBgm, Config.tagGem, Config.flagRsvdMask, or_assoc]

theorem flagPR_iff (f : Byte) (t : Tag) :
    flagPR f t = true ↔ flagPV f t = true ∧ flagPA f = true ∧ flagPX t = false := by
  simp [flagPR, and_assoc]

end Sys2Proof.Machine
end

