-- ==== Sys2Proof/Laws/PerInstr.lean ====
section
/-! SUPPORT. The family EncodedFields: the word of every command, cut into its fields, has the fields that
30_encoding.md R94, R96 and R97 give it. -/

namespace Sys2Proof.Laws.EncodedFields

/-- Cutting the command's word gives back its fields. -/
def Statement (i : Instr) : Prop := cutFields (encode i) = fieldsOf i

theorem getu8 (off : Nat) : Statement (.getu8 off) := cutFields_joinFields _
theorem getu16be (off : Nat) : Statement (.getu16be off) := cutFields_joinFields _
theorem getu16le (off : Nat) : Statement (.getu16le off) := cutFields_joinFields _
theorem getu32be (off : Nat) : Statement (.getu32be off) := cutFields_joinFields _
theorem getu32le (off : Nat) : Statement (.getu32le off) := cutFields_joinFields _
theorem setu8 (off : Nat) (val : Byte) : Statement (.setu8 off val) := cutFields_joinFields _
theorem setu16be (off : Nat) (val : Half) : Statement (.setu16be off val) := cutFields_joinFields _
theorem setu16le (off : Nat) (val : Half) : Statement (.setu16le off val) := cutFields_joinFields _
theorem setu32be (off : Nat) (val : Word32) : Statement (.setu32be off val) := cutFields_joinFields _
theorem setu32le (off : Nat) (val : Word32) : Statement (.setu32le off val) := cutFields_joinFields _
theorem getstr (off len : Nat) : Statement (.getstr off len) := cutFields_joinFields _
theorem csumbe (off len : Nat) : Statement (.csumbe off len) := cutFields_joinFields _
theorem csumle (off len : Nat) : Statement (.csumle off len) := cutFields_joinFields _
theorem punpk (off num : Nat) : Statement (.punpk off num) := cutFields_joinFields _

end Sys2Proof.Laws.EncodedFields
end

