-- ==== Sys2Proof/Laws/Run.lean ====
section
/-! SUPPORT. A run, step by step: the laws of `runFor` and of the command list a host holds (10_state.md R29). -/

namespace Sys2Proof.Safety

open Sys2Proof Sys2Proof.Machine

@[simp] theorem runFor_zero (s : State) : runFor 0 s = s := rfl

theorem runFor_next (n : Nat) {s t : State} (h : step s = .next t) : runFor (n + 1) s = runFor n t := by
  rw [runFor, h]

/-- With no move pending a run stays where it is (log 3). -/
theorem runFor_idle (n : Nat) (s : State) (h : s.moves = []) : runFor n s = s := by
  induction n with
  | zero => rfl
  | succ n ih => rw [runFor_next n (t := s) (by simp [step, h]), ih]

theorem program_issue (s : State) (w : Command) (rest : List HostMove) (h : s.moves = .issue w :: rest) :
    program s = w :: program { s with moves := rest } := by simp [program, h]

theorem program_other (s : State) (m : HostMove) (rest : List HostMove) (h : s.moves = m :: rest)
    (hm : ∀ w, m ≠ .issue w) : program s = program { s with moves := rest } := by
  cases m <;> simp_all [program]

end Sys2Proof.Safety
end

