-- ==== Sys2Proof/Tests/Slice0.lean ====
section
/-! SUPPORT. Tests: ill-formed terms, words written out from the spec's encodings, one step per vector of
95_test_vectors.md (named V-…), and a witness for the hypotheses of every statement that has some. -/

namespace Sys2Proof.Tests

open Sys2Proof Sys2Proof.Machine Sys2Proof.Safety

/-- The reset state with these bytes stored at `a`. -/
def placed (a : Nat) (bs : List Byte) : State := memWrite State.reset a bs

/-- The outcome is a next state that satisfies `p`. -/
def nextIs (o : Host.Outcome State Fault Refusal) (p : State → Bool) : Bool :=
  match o with
  | .next t => p t
  | _ => false

/-- The word decodes to this command. -/
def decodesTo (w : Command) (i : Instr) : Bool :=
  match decode w with
  | .ok j => decide (j = i)
  | .error _ => false

/-- The word is illegal for this reason. -/
def illegalFor (w : Command) (r : Reject) : Bool :=
  match decode w with
  | .ok _ => false
  | .error e => decide (e = r)

/-! ## Ill-formed terms -/

theorem test_wf_refuses_getu8 : wellFormed (.getu8 1024) = false := by decide
theorem test_wf_refuses_getu16be : wellFormed (.getu16be 1024) = false := by decide
theorem test_wf_refuses_getu16le : wellFormed (.getu16le 1024) = false := by decide
theorem test_wf_refuses_getu32be : wellFormed (.getu32be 1024) = false := by decide
theorem test_wf_refuses_getu32le : wellFormed (.getu32le 1024) = false := by decide
theorem test_wf_refuses_setu8 : wellFormed (.setu8 1024 0) = false := by decide
theorem test_wf_refuses_setu16be : wellFormed (.setu16be 1024 0) = false := by decide
theorem test_wf_refuses_setu16le : wellFormed (.setu16le 1024 0) = false := by decide
theorem test_wf_refuses_setu32be : wellFormed (.setu32be 1024 0) = false := by decide
theorem test_wf_refuses_setu32le : wellFormed (.setu32le 1024 0) = false := by decide
theorem test_wf_refuses_getstr_off : wellFormed (.getstr 1024 0) = false := by decide
theorem test_wf_refuses_getstr_len : wellFormed (.getstr 0 1024) = false := by decide
theorem test_wf_refuses_csumbe_off : wellFormed (.csumbe 1024 0) = false := by decide
theorem test_wf_refuses_csumbe_len : wellFormed (.csumbe 0 1024) = false := by decide
theorem test_wf_refuses_csumle_off : wellFormed (.csumle 1024 0) = false := by decide
theorem test_wf_refuses_csumle_len : wellFormed (.csumle 0 1024) = false := by decide
theorem test_wf_refuses_punpk_off : wellFormed (.punpk 1024 0) = false := by decide
theorem test_wf_refuses_punpk_num : wellFormed (.punpk 0 1024) = false := by decide

/-! ## Words, field by field in the order of 30_encoding.md R91: opc, e, rsv, aux, off, imm -/

theorem test_word_getu8 :
    decodesTo (0b00010000#8 ++ 0b0#1 ++ 0b000#3 ++ 0b0000000000#10 ++ 0b0000100110#10 ++ 0#32) (.getu8 0x26) = true := by
  decide
theorem test_word_getu16be :
    decodesTo (0b00010001#8 ++ 0b0#1 ++ 0b000#3 ++ 0b0000000000#10 ++ 0b0000010001#10 ++ 0#32) (.getu16be 0x11) = true := by
  decide
theorem test_word_getu16le :
    decodesTo (0b00010001#8 ++ 0b1#1 ++ 0b000#3 ++ 0b0000000000#10 ++ 0b0000001011#10 ++ 0#32) (.getu16le 0x0B) = true := by
  decide
theorem test_word_getu32be :
    decodesTo (0b00010010#8 ++ 0b0#1 ++ 0b000#3 ++ 0b0000000000#10 ++ 0b0111000010#10 ++ 0#32) (.getu32be 0x1C2) = true := by
  decide
theorem test_word_getu32le :
    decodesTo (0b00010010#8 ++ 0b1#1 ++ 0b000#3 ++ 0b0000000000#10 ++ 0b0111111100#10 ++ 0#32) (.getu32le 508) = true := by
  decide
theorem test_word_setu8 :
    decodesTo (0b00100000#8 ++ 0b0#1 ++ 0b000#3 ++ 0b0000000000#10 ++ 0b0111111110#10 ++ 0x00000055#32)
      (.setu8 0x1FE 0x55) = true := by decide
theorem test_word_setu16be :
    decodesTo (0b00100001#8 ++ 0b0#1 ++ 0b000#3 ++ 0b0000000000#10 ++ 0b0111111110#10 ++ 0x00001234#32)
      (.setu16be 0x1FE 0x1234) = true := by decide
theorem test_word_setu16le :
    decodesTo (0b00100001#8 ++ 0b1#1 ++ 0b000#3 ++ 0b0000000000#10 ++ 0b0000000000#10 ++ 0x0000FFFF#32)
      (.setu16le 0 0xFFFF) = true := by decide
theorem test_word_setu32be :
    decodesTo (0b00100010#8 ++ 0b0#1 ++ 0b000#3 ++ 0b0000000000#10 ++ 0b0100000000#10 ++ 0x11223344#32)
      (.setu32be 0x100 0x11223344) = true := by decide
theorem test_word_setu32le :
    decodesTo (0b00100010#8 ++ 0b1#1 ++ 0b000#3 ++ 0b0000000000#10 ++ 0b0111001010#10 ++ 0x00000800#32)
      (.setu32le 0x1CA 2048) = true := by decide
theorem test_word_getstr :
    decodesTo (0b00110000#8 ++ 0b0#1 ++ 0b000#3 ++ 0b0000001011#10 ++ 0b0000101011#10 ++ 0#32) (.getstr 0x2B 11) = true := by
  decide
theorem test_word_csumbe :
    decodesTo (0b01000000#8 ++ 0b0#1 ++ 0b000#3 ++ 0b1000000000#10 ++ 0b0000000000#10 ++ 0#32) (.csumbe 0 512) = true := by
  decide
theorem test_word_csumle :
    decodesTo (0b01000000#8 ++ 0b1#1 ++ 0b000#3 ++ 0b1000000000#10 ++ 0b0000000010#10 ++ 0#32) (.csumle 2 512) = true := by
  decide
theorem test_word_punpk :
    decodesTo (0b01010000#8 ++ 0b0#1 ++ 0b000#3 ++ 0b0000000100#10 ++ 0b0101010110#10 ++ 0#32) (.punpk 0x156 4) = true := by
  decide

/-- V-D1, V-D2, V-D9, V-D25, V-D26. -/
theorem test_illegal_opcodes :
    illegalFor 0x0000000000000000 .unknownOpcode = true ∧ illegalFor 0xFFFFFFFFFFFFFFFF .reservedBits = true ∧
    illegalFor 0x1300000000000000 .unknownOpcode = true ∧ illegalFor 0x6000000000000000 .unknownOpcode = true ∧
    illegalFor 0x2300000000000000 .unknownOpcode = true := by decide
/-- V-D5, V-D16, V-D18, V-D24. -/
theorem test_illegal_order_bit :
    illegalFor 0x1080000000000000 .orderBit = true ∧ illegalFor 0x2080000000000000 .orderBit = true ∧
    illegalFor 0x3080000000000000 .orderBit = true ∧ illegalFor 0x5080000000000000 .orderBit = true := by decide
/-- V-D6, V-D22, V-D7, V-SF11. -/
theorem test_illegal_rsv_aux :
    illegalFor 0x1010000000000000 .reservedBits = true ∧ illegalFor 0x4040000000000000 .reservedBits = true ∧
    illegalFor 0x1000040000000000 .auxNotZero = true ∧ illegalFor 0x220005FC11223344 .auxNotZero = true := by decide
/-- V-D8, V-D19, V-D12, V-D13. -/
theorem test_illegal_imm :
    illegalFor 0x1000000000000001 .immNotZero = true ∧ illegalFor 0x3000000000000001 .immNotZero = true ∧
    illegalFor 0x2000000000000100 .valueTooWide = true ∧ illegalFor 0x2100000000010000 .valueTooWide = true := by decide

/-- The command table of spec/opcode_table.json, row GETU8 with `off` 0x26. -/
theorem test_decode_table_word : decodeTableWord 64 0x1000002600000000 = some (.getu8 0x26) := by decide
/-- A reset machine with a word at the command port runs it in the very next step. -/
theorem test_fetch_word : nextIs (step (State.reset.withFetchWord 64 0x200001FE00000055))
    (fun t => bufByte t 0x1FE == 0x55 && t.k == 1 && t.moves.isEmpty) = true := by decide

/-! ## GET -/

/-- V-G1, V-G3, …: the buffer of the GET vectors. -/
def getBuffer : State := placed 0x10 [0x12, 0x34, 0x56, 0x78, 0x00]

/-- V-G2. -/
theorem test_getu8 : nextIs (exec (.getu8 0x13) getBuffer) (fun t => t.res == 0x78 && t.k == 1) = true := by decide
/-- V-G20. -/
theorem test_getu8_bounds : nextIs (exec (.getu8 1023) getBuffer)
    (fun t => statusWord t.status == 9 && t.fcmd == 0x100003FF00000000 && t.res == 0 && t.k == 0) = true := by decide
/-- V-G5. -/
theorem test_getu16be : nextIs (exec (.getu16be 0x11) getBuffer) (fun t => t.res == 0x3456) = true := by decide
/-- V-G21. -/
theorem test_getu16be_bounds : nextIs (exec (.getu16be 511) getBuffer)
    (fun t => statusWord t.status == 9 && t.fcmd == 0x110001FF00000000) = true := by decide
/-- V-G6. -/
theorem test_getu16le : nextIs (exec (.getu16le 0x11) getBuffer) (fun t => t.res == 0x5634) = true := by decide
/-- V-G9. -/
theorem test_getu32be : nextIs (exec (.getu32be 0x11) getBuffer) (fun t => t.res == 0x34567800) = true := by decide
/-- V-G16. -/
theorem test_getu32be_top : nextIs (exec (.getu32be 508) (placed 508 [0xFF, 0xFE, 0xFD, 0xFC]))
    (fun t => t.res == 0xFFFEFDFC) = true := by decide
/-- V-G8. -/
theorem test_getu32le : nextIs (exec (.getu32le 0x10) getBuffer) (fun t => t.res == 0x78563412) = true := by decide
/-- V-G24. -/
theorem test_getu32le_bounds : nextIs (exec (.getu32le 511) getBuffer)
    (fun t => statusWord t.status == 9 && t.fcmd == 0x128001FF00000000) = true := by decide

/-! ## SET -/

/-- The buffer of the SET vectors. -/
def setBuffer : State := placed 0xFF [0xEE, 0x00, 0x00, 0x00, 0x00, 0xEE]

/-- `BUF[0xFF..0x104]`. -/
def window (t : State) : List Byte := (List.range 6).map fun i => bufByte t (0xFF + i)

/-- V-S1. -/
theorem test_setu8 : nextIs (exec (.setu8 0x100 0xA5) setBuffer)
    (fun t => window t == [0xEE, 0xA5, 0x00, 0x00, 0x00, 0xEE] && t.k == 1) = true := by decide
/-- V-SF1. -/
theorem test_setu8_bounds : nextIs (exec (.setu8 512 1) setBuffer)
    (fun t => statusWord t.status == 9 && t.fcmd == 0x2000020000000001 && t.buf == setBuffer.buf) = true := by decide
/-- V-S6. -/
theorem test_setu16be : nextIs (exec (.setu16be 0x101 0xBEEF) setBuffer)
    (fun t => window t == [0xEE, 0x00, 0xBE, 0xEF, 0x00, 0xEE]) = true := by decide
/-- V-SF2: a store that faults writes no byte. -/
theorem test_setu16be_bounds : nextIs (exec (.setu16be 511 0x1234) setBuffer)
    (fun t => statusWord t.status == 9 && t.buf == setBuffer.buf) = true := by decide
/-- V-S5. -/
theorem test_setu16le : nextIs (exec (.setu16le 0x100 0x1234) setBuffer)
    (fun t => window t == [0xEE, 0x34, 0x12, 0x00, 0x00, 0xEE]) = true := by decide
/-- V-S7. -/
theorem test_setu32be : nextIs (exec (.setu32be 0x100 0x11223344) setBuffer)
    (fun t => window t == [0xEE, 0x11, 0x22, 0x33, 0x44, 0xEE]) = true := by decide
/-- V-SF4. -/
theorem test_setu32be_bounds : nextIs (exec (.setu32be 509 0x11223344) setBuffer)
    (fun t => statusWord t.status == 9 && t.buf == setBuffer.buf) = true := by decide
/-- V-S10. -/
theorem test_setu32le : nextIs (exec (.setu32le 0x100 0x80000001) setBuffer)
    (fun t => window t == [0xEE, 0x01, 0x00, 0x00, 0x80, 0xEE]) = true := by decide

/-! ## GETSTR -/

/-- V-T2. -/
theorem test_getstr : nextIs (exec (.getstr 0x40 8) (placed 0x40 [0x46, 0x41, 0x54, 0x31, 0x36, 0x20, 0x20, 0x20]))
    (fun t => t.slen == 5 && t.sb.toList == [0x46, 0x41, 0x54, 0x31, 0x36, 0x20, 0x20, 0x20, 0, 0, 0, 0, 0, 0, 0, 0]) = true := by
  decide
/-- V-T14: a field of 16. -/
theorem test_getstr_full : nextIs (exec (.getstr 0x40 16) (placed 0x40
    [0x30, 0x31, 0x32, 0x33, 0x34, 0x35, 0x36, 0x37, 0x38, 0x39, 0x41, 0x42, 0x43, 0x44, 0x45, 0x20]))
    (fun t => t.slen == 15 && t.sb[15] == 0x20) = true := by decide
/-! ## CSUM -/

/-- V-C1: buffer A. -/
theorem test_csumbe : nextIs (exec (.csumbe 0 4) (placed 0 [0x12, 0x00, 0x00, 0x34]))
    (fun t => t.sum == 0x1234 && statusWord t.status == 0x10) = true := by decide
/-- V-C7: buffer B, the sum wraps. -/
theorem test_csumle : nextIs (exec (.csumle 0 4) (placed 0 [0xFF, 0xFF, 0x00, 0x01]))
    (fun t => t.sum == 0x00FF && !t.status.x) = true := by decide
/-- V-CF9. -/
theorem test_csumle_bounds : nextIs (exec (.csumle 2 512) State.reset)
    (fun t => statusWord t.status == 9 && t.fcmd == 0x4088000200000000) = true := by decide

/-! ## PUNPK -/

/-- The slot of V-P2. -/
def slotP2 : State := placed 0x1C6 [0x81, 0x47, 0x45, 0x4D, 0x00, 0x00, 0x08, 0x02, 0x00, 0x01, 0x00, 0x00]

/-- V-P2. -/
theorem test_punpk : nextIs (exec (.punpk 0x1C6 0) slotP2)
    (fun t => t.pflags == 0x81 && t.ptype == 0x47454D && t.pstart == 0x100400 && t.plen == 0x2000000 &&
      t.powner == 0 && t.pnum == 0 && statusWord t.status == 0x2E0) = true := by decide
/-- V-P10: an XGM slot with a reserved flag bit set, under V-PF2's number 11; and V-P17: start 2^40, length 2^31. -/
theorem test_punpk_corners :
    nextIs (exec (.punpk 0x1C6 11) (placed 0x1C6 [0x03, 0x58, 0x47, 0x4D, 0x00, 0x00, 0x00, 0x02, 0x00, 0x00, 0x08, 0x00]))
      (fun t => t.pnum == 11 && t.plen == 0x100000 && statusWord t.status == 0x140) = true ∧
    nextIs (exec (.punpk 0x1C6 0) (placed 0x1C6 [0x01, 0x47, 0x45, 0x4D, 0x80, 0x00, 0x00, 0x00, 0x00, 0x40, 0x00, 0x00]))
      (fun t => t.pstart == 0x10000000000 && t.plen == 0x80000000 && statusWord t.status == 0x260) = true := by decide

/-! ## Faults, ports, reset -/

/-- V-F1, V-F2, V-F3: `Operand` and `OddLen` before `Bounds`. -/
theorem test_fault_priority :
    nextIs (issueWord 0x3000465800000000 State.reset)
      (fun t => statusWord t.status == 5 && t.fcmd == 0x3000465800000000) = true ∧
    nextIs (issueWord 0x40000DFF00000000 State.reset)
      (fun t => statusWord t.status == 7 && t.fcmd == 0x40000DFF00000000) = true ∧
    nextIs (issueWord 0x500031F900000000 State.reset)
      (fun t => statusWord t.status == 5 && t.fcmd == 0x500031F900000000) = true := by decide
/-- V-F4 and V-F6: `Illegal` before every other fault. -/
theorem test_illegal_first :
    nextIs (issueWord 0x111001FF00000000 State.reset) (fun t => statusWord t.status == 3) = true ∧
    nextIs (issueWord 0x40F00DFF00000000 State.reset)
      (fun t => statusWord t.status == 3 && t.fcmd == 0x40F00DFF00000000) = true := by decide

/-- Section 2.7, after step 2: halted by `Bounds`, `RES` = 0xABCD. -/
def halted : State :=
  { placed 0 [0xAB, 0xCD] with
    res := 0xABCD, status := { Status.reset with f := true, fc := 4 }, fcmd := 0x110001FF00000000, k := 1 }

/-- Section 2.7, steps 3 and 4. -/
theorem test_halted_ignores_commands :
    nextIs (issueWord 0x1000000000000000 halted) (fun t => t == halted) = true ∧
    nextIs (issueWord 0 halted) (fun t => t == halted) = true := by decide
/-- Section 2.7, step 5. -/
theorem test_halted_buffer_port : nextIs (step { halted with moves := [.writeBuf 1 0xEF] })
    (fun t => bufByte t 1 == 0xEF && bufByte t 0 == 0xAB && t.res == 0xABCD && statusWord t.status == 9) = true := by decide
/-- Section 2.7, step 6. -/
theorem test_reset_clears : nextIs (step { halted with moves := [.reset] })
    (fun t => t.res == 0 && statusWord t.status == 0 && t.fcmd == 0 && bufByte t 1 == 0xCD && t.k == 1) = true := by decide
/-- Section 2.8: `PFLAGS`, `PTYPE` and an unmapped number after V-P2. -/
theorem test_read_port : nextIs (exec (.punpk 0x1C6 5) slotP2)
    (fun t => readRegister t 0 == 0x2E0 && readRegister t 4 == 5 && readRegister t 6 == 0x47454D &&
      readRegister t 11 == 0 && readRegister t 63 == 0) = true := by decide
/-- Section 2.8: register 17 is `SB[1]`. -/
theorem test_read_port_string : readRegister { State.reset with sb := State.reset.sb.set 1 0x41 } 17 = 0x41 := by decide
/-- Example S11: slots 2 and 11. -/
theorem test_punpks_words : encode (punpks 2) = 0x500009DE00000000 ∧ encode (punpks 11) = 0x50002DAA00000000 := by decide

/-- R19, R213: a run that reaches the halt has not ended well, also when a reset follows. -/
theorem test_reset_does_not_mend_a_run : ¬ EndsWell { State.reset with moves := [.issue 0, .reset] } := by
  unfold EndsWell
  decide

/-! ## Witnesses: a state and operands that meet the hypotheses of each statement -/

/-- A reset machine is not halted. -/
theorem witness_running : State.reset.status.f = false := rfl

theorem witness_DecodeOfEncodeIsTheCommand : wellFormed (.csumle 1023 1023) = true ∧ wellFormed (.setu8 1023 0xFF) = true := by
  decide

theorem witness_EncodeOfDecodeIsTheWord : decode 0x5000115600000000 = .ok (.punpk 0x156 4) := by decide

theorem witness_DecodeFollowsMatchAndMask_match : ∃ r ∈ commandTable, 0x218001FF0000FFFF &&& r.mask = r.pattern :=
  ⟨commandTable[7], by simp [commandTable], by decide⟩
theorem witness_DecodeFollowsMatchAndMask_none : ∀ r ∈ commandTable, 0x2180000000010000 &&& r.mask ≠ r.pattern := by
  decide

/-- One word for each clause, at the least nonzero value of the field. -/
theorem witness_ReservedEncodingsAreIllegal :
    ((0x1300000000000000#64).extractLsb' 56 8).toNat ∉ [0x10, 0x11, 0x12, 0x20, 0x21, 0x22, 0x30, 0x40, 0x50] ∧
    (0x1010000000000000#64).extractLsb' 52 3 ≠ 0 ∧
    ((0x1080000000000000#64).getLsbD 55 = true ∧ ((0x1080000000000000#64).extractLsb' 56 8).toNat = 0x10) ∧
    ((0x1000040000000000#64).extractLsb' 42 10 ≠ 0 ∧ ((0x1000040000000000#64).extractLsb' 56 8).toNat = 0x10) ∧
    ((0x5000000000000001#64).extractLsb' 0 32 ≠ 0 ∧ ((0x5000000000000001#64).extractLsb' 56 8).toNat = 0x50) ∧
    ((0x2000000000000100#64).extractLsb' 8 24 ≠ 0 ∧ ((0x2000000000000100#64).extractLsb' 56 8).toNat = 0x20) ∧
    ((0x2100000000010000#64).extractLsb' 16 16 ≠ 0 ∧ ((0x2100000000010000#64).extractLsb' 56 8).toNat = 0x21) := by
  decide

/-- The boundary slot numbers of the two clauses. -/
theorem witness_PseudoInstructionsExpand : punpks 3 = .punpk 0x1EA 3 ∧ punpks 4 = .punpk 0x156 4 ∧
    punpks 11 = .punpk 0x1AA 11 := by decide

theorem witness_StepRunsTheDecodedCommand :
    ({ State.reset with moves := [.issue 0x100001FF00000000, .reset] } : State).moves =
      .issue 0x100001FF00000000 :: [.reset] ∧ decode 0x100001FF00000000 = .ok (.getu8 511) := by decide

theorem witness_StepTakesIllegal :
    ({ State.reset with moves := [.issue 0] } : State).moves = .issue 0 :: [] ∧
    decode 0 = .error .unknownOpcode ∧ State.reset.status.f = false := by decide

/-- One state for each clause; the port addresses at the ends of their ranges. -/
theorem witness_StepMakesHostMoves :
    State.reset.moves = [] ∧
    ({ State.reset with moves := [.readReg 63] } : State).moves = .readReg 63 :: [] ∧
    ({ State.reset with moves := [.readBuf 511] } : State).moves = .readBuf 511 :: [] ∧
    ({ State.reset with moves := [.writeBuf 0 0xFF] } : State).moves = .writeBuf 0 0xFF :: [] ∧
    ({ State.reset with moves := [.reset] } : State).moves = .reset :: [] := ⟨rfl, rfl, rfl, rfl, rfl⟩

theorem witness_HaltedAcceptsNoCommand : halted.status.f = true := rfl

theorem witness_HaltLastsUntilReset :
    ∃ t, step { halted with moves := [.issue 0x100001FF00000000] } = .next t ∧ halted.status.f = true ∧
      ∀ rest : List HostMove, [HostMove.issue 0x100001FF00000000] ≠ .reset :: rest :=
  ⟨_, rfl, rfl, by intro rest h; cases h⟩

/-- An issue that retires, one that faults, one while halted, and a move that is no issue. -/
theorem witness_PositionCountsRetiredCommands :
    nextIs (step { State.reset with moves := [.issue 0x200001FF0000005A] }) (fun t => !t.status.f && t.k == 1) = true ∧
    nextIs (step { State.reset with moves := [.issue 0x2000020000000001] }) (fun t => t.status.f && t.k == 0) = true ∧
    nextIs (step { halted with moves := [.issue 0x200001FF0000005A] }) (fun t => t.k == 1) = true ∧
    nextIs (step { State.reset with moves := [.writeBuf 511 1] }) (fun t => t.k == 0) = true := by decide

theorem witness_RegisterReadPort :
    (11 ≤ (11#6).toNat ∧ (11#6).toNat ≤ 15) ∧ (11 ≤ (15#6).toNat ∧ (15#6).toNat ≤ 15) ∧ 32 ≤ (32#6).toNat ∧
    32 ≤ (63#6).toNat := by decide

theorem witness_BufferPort : (510 : Nat) ≠ (511#9).toNat ∧ State.reset.status.f = false := by decide

theorem witness_ResetClearsRegisters : State.reset.moves = [] ∧ halted.status.f = true ∧
    (∃ t, step { halted with moves := [.readReg 10] } = .next t) ∧
    ∀ rest : List HostMove, [HostMove.readReg 10] ≠ .reset :: rest :=
  ⟨rfl, rfl, ⟨_, rfl⟩, by intro rest h; cases h⟩

/-- One running machine whose run ends well, and one whose run ends badly at its first step. -/
theorem witness_RunsEndWellIffNeverHalted :
    ({ State.reset with moves := [.issue 0x200001FF0000005A, .reset] } : State).status.f = false ∧
    EndsWell { State.reset with moves := [.issue 0x200001FF0000005A, .reset] } ∧
    ({ State.reset with moves := [.issue 0, .reset] } : State).status.f = false ∧
    EndsBadly { State.reset with moves := [.issue 0, .reset] } := by
  refine ⟨rfl, ?_, rfl, 0, rfl, rfl⟩
  unfold EndsWell
  decide

/-- A word of each fault, and one of none, on a running machine. -/
theorem witness_FaultConditions :
    State.reset.status.f = false ∧
    nextIs (issueWord 0 State.reset) (fun t => t.status.fc == 1) = true ∧
    nextIs (issueWord 0x3000440000000000 State.reset) (fun t => t.status.fc == 2) = true ∧
    nextIs (issueWord 0x40000C0000000000 State.reset) (fun t => t.status.fc == 3) = true ∧
    nextIs (issueWord 0x1000020000000000 State.reset) (fun t => t.status.fc == 4) = true ∧
    nextIs (issueWord 0x2000000000000001 State.reset) (fun t => !t.status.f) = true := by decide

theorem witness_FaultWritesOnlyItsRecord :
    ∃ t, issueWord 0x2000020000000001 State.reset = .next t ∧ t.status.f = true := ⟨_, rfl, rfl⟩

theorem witness_FaultDependsOnTheWordAlone :
    State.reset.status.f = false ∧ slotP2.status.f = false ∧
    (∃ t, issueWord 0x500001F500000000 State.reset = .next t ∧ t.status.f = true) ∧
    (∃ t, issueWord 0x500001F500000000 slotP2 = .next t ∧ t.status.f = true) := ⟨rfl, rfl, ⟨_, rfl, rfl⟩, ⟨_, rfl, rfl⟩⟩

/-- The clauses of zero lengths meet between 512 and 513. -/
theorem witness_NoWrapAndZeroLengths :
    State.reset.status.f = false ∧
    nextIs (exec (.getstr 512 0) State.reset) (fun t => !t.status.f && t.slen == 0) = true ∧
    nextIs (exec (.csumle 512 0) State.reset) (fun t => !t.status.f && t.sum == 0) = true ∧
    nextIs (exec (.getstr 513 0) State.reset) (fun t => t.status.fc == 4) = true ∧
    nextIs (exec (.csumbe 513 0) State.reset) (fun t => t.status.fc == 4) = true := by decide

/-! Of each GET and SET: the last offset that retires and the first that faults. -/

theorem witness_GetU8ReadsOneByte : State.reset.status.f = false ∧ 511 + 1 ≤ 512 ∧
    nextIs (exec (.getu8 511) State.reset) (fun t => !t.status.f) = true ∧
    nextIs (exec (.getu8 512) State.reset) (fun t => t.status.f) = true := by decide
theorem witness_GetU16BigEndianReads : State.reset.status.f = false ∧ 510 + 2 ≤ 512 ∧
    nextIs (exec (.getu16be 510) State.reset) (fun t => !t.status.f) = true ∧
    nextIs (exec (.getu16be 511) State.reset) (fun t => t.status.f) = true := by decide
theorem witness_GetU16LittleEndianReads : State.reset.status.f = false ∧ 510 + 2 ≤ 512 ∧
    nextIs (exec (.getu16le 510) State.reset) (fun t => !t.status.f) = true ∧
    nextIs (exec (.getu16le 511) State.reset) (fun t => t.status.f) = true := by decide
theorem witness_GetU32BigEndianReads : State.reset.status.f = false ∧ 508 + 4 ≤ 512 ∧
    nextIs (exec (.getu32be 508) State.reset) (fun t => !t.status.f) = true ∧
    nextIs (exec (.getu32be 509) State.reset) (fun t => t.status.f) = true := by decide
theorem witness_GetU32LittleEndianReads : State.reset.status.f = false ∧ 508 + 4 ≤ 512 ∧
    nextIs (exec (.getu32le 508) State.reset) (fun t => !t.status.f) = true ∧
    nextIs (exec (.getu32le 509) State.reset) (fun t => t.status.f) = true := by decide
theorem witness_GetsCompose : State.reset.status.f = false ∧ 510 + 2 ≤ 512 ∧ 508 + 4 ≤ 512 := by decide
theorem witness_LittleEndianIsByteReversal : State.reset.status.f = false ∧ 510 + 2 ≤ 512 ∧ 508 + 4 ≤ 512 := by decide
theorem witness_SetU8StoresOneByte : State.reset.status.f = false ∧ 511 + 1 ≤ 512 ∧
    nextIs (exec (.setu8 511 0x5A) State.reset) (fun t => bufByte t 511 == 0x5A) = true ∧
    nextIs (exec (.setu8 512 0x5A) State.reset) (fun t => t.status.f) = true := by decide
theorem witness_SetU16BigEndianStores : State.reset.status.f = false ∧ 510 + 2 ≤ 512 ∧
    nextIs (exec (.setu16be 510 0x1234) State.reset) (fun t => bufByte t 511 == 0x34) = true ∧
    nextIs (exec (.setu16be 511 0x1234) State.reset) (fun t => t.status.f) = true := by decide
theorem witness_SetU16LittleEndianStores : State.reset.status.f = false ∧ 510 + 2 ≤ 512 ∧
    nextIs (exec (.setu16le 510 0x1234) State.reset) (fun t => bufByte t 511 == 0x12) = true ∧
    nextIs (exec (.setu16le 511 0x1234) State.reset) (fun t => t.status.f) = true := by decide
theorem witness_SetU32BigEndianStores : State.reset.status.f = false ∧ 508 + 4 ≤ 512 ∧
    nextIs (exec (.setu32be 508 0x11223344) State.reset) (fun t => bufByte t 511 == 0x44) = true ∧
    nextIs (exec (.setu32be 509 0x11223344) State.reset) (fun t => t.status.f) = true := by decide
theorem witness_SetU32LittleEndianStores : State.reset.status.f = false ∧ 508 + 4 ≤ 512 ∧
    nextIs (exec (.setu32le 508 0x11223344) State.reset) (fun t => bufByte t 511 == 0x11) = true ∧
    nextIs (exec (.setu32le 509 0x11223344) State.reset) (fun t => t.status.f) = true := by decide
theorem witness_SetsCompose : setBuffer.status.f = false ∧ 510 + 2 ≤ 512 ∧ 508 + 4 ≤ 512 := by decide
theorem witness_GetAfterSetGivesTheValue : setBuffer.status.f = false ∧ 511 + 1 ≤ 512 ∧ 510 + 2 ≤ 512 ∧ 508 + 4 ≤ 512 := by
  decide
theorem witness_SecondIssueChangesNothing : slotP2.status.f = false ∧
    ∃ t, exec (.punpk 0x1C6 11) slotP2 = .next t ∧ t.status.f = false := ⟨rfl, _, rfl, rfl⟩

theorem witness_GetstrReadsAndTrims : State.reset.status.f = false ∧ (16 ≤ 16 ∧ 496 + 16 ≤ 512) ∧ 16 < 17 ∧
    (15 ≤ 16 ∧ 512 < 498 + 15) ∧
    nextIs (exec (.getstr 496 16) State.reset) (fun t => !t.status.f) = true ∧
    nextIs (exec (.getstr 0 17) State.reset) (fun t => t.status.fc == 2) = true ∧
    nextIs (exec (.getstr 498 15) State.reset) (fun t => t.status.fc == 4) = true := by decide

/-- Another trim set: every byte up to 0x20 (95_test_vectors.md section 2.4). -/
theorem witness_TrimmingCannotChangeATag :
    decide (0x4D#8 ≤ 0x20#8) = false ∧ decide (0x47#8 ≤ 0x20#8) = false ∧ decide (0x45#8 ≤ 0x20#8) = false ∧
    [0x58#8, 0x47#8, 0x4D#8] ∈ [[0x47#8, 0x45#8, 0x4D#8], [0x42#8, 0x47#8, 0x4D#8], [0x58#8, 0x47#8, 0x4D#8]] := by decide

theorem witness_CsumBigEndianSums : State.reset.status.f = false ∧ (512 % 2 = 0 ∧ 0 + 512 ≤ 512) ∧ 513 % 2 = 1 ∧
    (514 % 2 = 0 ∧ 512 < 0 + 514) ∧
    nextIs (exec (.csumbe 0 513) State.reset) (fun t => t.status.fc == 3) = true ∧
    nextIs (exec (.csumbe 0 514) State.reset) (fun t => t.status.fc == 4) = true := by decide
theorem witness_CsumLittleEndianSums : State.reset.status.f = false ∧ (2 % 2 = 0 ∧ 510 + 2 ≤ 512) ∧ 1 % 2 = 1 ∧
    (2 % 2 = 0 ∧ 512 < 511 + 2) ∧
    nextIs (exec (.csumle 510 2) State.reset) (fun t => !t.status.f) = true ∧
    nextIs (exec (.csumle 511 1) State.reset) (fun t => t.status.fc == 3) = true ∧
    nextIs (exec (.csumle 511 2) State.reset) (fun t => t.status.fc == 4) = true := by decide

/-- Buffer B: E = 0xFF + 0x00, O = 0xFF + 0x01. -/
theorem witness_CsumByEvenAndOddBytes : (placed 0 [0xFF, 0xFF, 0x00, 0x01]).status.f = false ∧ 4 % 2 = 0 ∧ 0 + 4 ≤ 512 ∧
    255 = ((List.range (4 / 2)).map fun i => (bufByte (placed 0 [0xFF, 0xFF, 0x00, 0x01]) (0 + 2 * i)).toNat).sum ∧
    256 = ((List.range (4 / 2)).map fun i => (bufByte (placed 0 [0xFF, 0xFF, 0x00, 0x01]) (0 + 2 * i + 1)).toNat).sum := by
  decide

/-- Two words exchanged. -/
theorem witness_CsumIgnoresWordOrder :
    (placed 0 [1, 2, 3, 4]).status.f = false ∧ (placed 0 [3, 4, 1, 2]).status.f = false ∧ 4 % 2 = 0 ∧ 0 + 4 ≤ 512 ∧
    ∀ i : Fin (4 / 2),
      bufByte (placed 0 [3, 4, 1, 2]) (0 + 2 * i.val) =
        bufByte (placed 0 [1, 2, 3, 4]) (0 + 2 * (Equiv.swap (0 : Fin (4 / 2)) 1 i).val) ∧
      bufByte (placed 0 [3, 4, 1, 2]) (0 + 2 * i.val + 1) =
        bufByte (placed 0 [1, 2, 3, 4]) (0 + 2 * (Equiv.swap (0 : Fin (4 / 2)) 1 i).val + 1) := by decide

/-- An even and an odd position exchanged (i = 0, j = 3), and two even ones (i = 0, j = 2). -/
theorem witness_CsumSeesByteExchange :
    (∀ n, n < 4 → n ≠ 0 → n ≠ 3 → bufByte (placed 0 [4, 2, 3, 1]) (0 + n) = bufByte (placed 0 [1, 2, 3, 4]) (0 + n)) ∧
    bufByte (placed 0 [4, 2, 3, 1]) (0 + 0) = bufByte (placed 0 [1, 2, 3, 4]) (0 + 3) ∧
    bufByte (placed 0 [4, 2, 3, 1]) (0 + 3) = bufByte (placed 0 [1, 2, 3, 4]) (0 + 0) ∧ 0 % 2 ≠ 3 % 2 ∧
    (∀ n, n < 4 → n ≠ 0 → n ≠ 2 → bufByte (placed 0 [3, 2, 1, 4]) (0 + n) = bufByte (placed 0 [1, 2, 3, 4]) (0 + n)) ∧
    bufByte (placed 0 [3, 2, 1, 4]) (0 + 0) = bufByte (placed 0 [1, 2, 3, 4]) (0 + 2) ∧
    bufByte (placed 0 [3, 2, 1, 4]) (0 + 2) = bufByte (placed 0 [1, 2, 3, 4]) (0 + 0) ∧ 0 % 2 = 2 % 2 ∧
    (placed 0 [3, 2, 1, 4]).status.f = false ∧ (placed 0 [1, 2, 3, 4]).status.f = false ∧ 4 % 2 = 0 ∧ 0 + 4 ≤ 512 := by
  decide

theorem witness_BalancingWordMakesExecutable : slotP2.status.f = false := rfl

theorem witness_PunpkUnpacksTheSlot : State.reset.status.f = false ∧ (11 ≤ 11 ∧ 500 + 12 ≤ 512) ∧ 11 < 12 ∧
    (11 ≤ 11 ∧ 500 < 501) ∧
    nextIs (exec (.punpk 500 11) State.reset) (fun t => !t.status.f) = true ∧
    nextIs (exec (.punpk 500 12) State.reset) (fun t => t.status.fc == 2) = true ∧
    nextIs (exec (.punpk 501 11) State.reset) (fun t => t.status.fc == 4) = true := by decide

/-- One slot for each row of the verdict table: GEM, XGM, no legal tag. -/
theorem witness_PunpkVerdicts : slotP2.status.f = false ∧
    nextIs (exec (.punpk 0x1C6 0) slotP2) (fun t => !t.status.f && t.ptype == 0x47454D) = true ∧
    nextIs (exec (.punpk 0 0) (placed 0 [0x00, 0x58, 0x47, 0x4D, 0, 0, 0, 0, 0, 0, 0, 0]))
      (fun t => !t.status.f && t.ptype == 0x58474D) = true ∧
    nextIs (exec (.punpk 0 0) (placed 0 [0x81, 0x47, 0x45, 0x4E, 0, 0, 0, 0, 0, 0, 0, 0]))
      (fun t => !t.status.f && t.ptype == 0x47454E) = true := by decide

theorem witness_PunpkByteQuantitiesAreExact : slotP2.status.f = false ∧
    ∃ t, exec (.punpk 0x1C6 0) slotP2 = .next t ∧ t.status.f = false := ⟨rfl, _, rfl, rfl⟩
theorem witness_PunpkAgreesWithTheGets : slotP2.status.f = false ∧ 11 ≤ 11 ∧ 0x1C6 + 12 ≤ 512 := by decide
theorem witness_HostExtentIsTheLength : slotP2.status.f = false ∧
    ∃ t, exec (.punpk 0x1C6 0) slotP2 = .next t ∧ t.status.f = false := ⟨rfl, _, rfl, rfl⟩
theorem witness_HostCallSitesRetire : State.reset.status.f = false ∧ punpks 3 ∈ rootSectorCalls ∧ 3 ≤ 3 ∧
    .setu32le 0x1FA 2048 ∈ mbrEntryCalls 3 0x80 0x0E 0 2048 := by decide

theorem witness_CommandsKeepTheirWriteSets : slotP2.status.f = false ∧
    (∃ t, exec (.setu32le 508 1) slotP2 = .next t ∧ t.status.f = false) ∧
    (∃ t, exec (.setu32le 509 1) slotP2 = .next t ∧ t.status.f = true) := ⟨rfl, ⟨_, rfl, rfl⟩, ⟨_, rfl, rfl⟩⟩

theorem witness_OnlyStoresChangeBuf :
    ∃ t, step { slotP2 with moves := [.issue 0x500001C600000000] } = .next t ∧
      (∀ a b rest, [HostMove.issue 0x500001C600000000] ≠ .writeBuf a b :: rest) ∧
      ((0x500001C600000000#64).extractLsb' 56 8).toNat ∉ [0x20, 0x21, 0x22] :=
  ⟨_, rfl, (by intro a b rest h; cases h), by decide⟩

/-- The slot of V-P2 alone, and the same slot beside another byte and with other registers. -/
theorem witness_ResultsDependOnTouchedBytesAlone :
    slotP2.status.f = false ∧ (hostWriteBuf 0x1D2 7 { slotP2 with res := 7, k := 3 }).status.f = false ∧
    (∀ a, (touched (.punpk 0x1C6 0)).1 ≤ a → a < (touched (.punpk 0x1C6 0)).1 + (touched (.punpk 0x1C6 0)).2 →
      bufByte slotP2 a = bufByte (hostWriteBuf 0x1D2 7 { slotP2 with res := 7, k := 3 }) a) ∧
    (∃ t, exec (.punpk 0x1C6 0) slotP2 = .next t ∧ t.status.f = false) ∧
    (∃ t, exec (.punpk 0x1C6 0) (hostWriteBuf 0x1D2 7 { slotP2 with res := 7, k := 3 }) = .next t) := by
  refine ⟨rfl, rfl, fun a _ h => ?_, ⟨_, rfl, rfl⟩, _, rfl⟩
  exact (bufByte_store_other _ 0x1D2 a 7 (by change a < 466 at h; omega)).symm

/-- Two lists that hold the same bytes: one has a power-on byte written back. -/
theorem witness_NoHiddenState :
    SameView State.reset { State.reset with buf := [(0, Config.powerOnByte 0)] } ∧
    State.reset ≠ { State.reset with buf := [(0, Config.powerOnByte 0)] } := by
  refine ⟨⟨fun a _ => ?_, ⟨rfl, rfl, rfl, rfl, rfl, rfl, rfl, rfl, rfl, rfl⟩, rfl, rfl⟩, fun h => ?_⟩
  · by_cases h : 0 = a
    · subst h; rfl
    · simp [bufByte, Memory.lookup, State.reset, h]
  · have := congrArg State.buf h
    cases this

/-- A machine that has unpacked an XGM slot, read a string and found a checksum, about to store a byte. -/
def busy : State :=
  { placed 0x10 [0x41, 0x20] with
    sum := 0x1234, slen := 1, sb := (Vector.replicate 16 0#8).set 0 0x41, pnum := 3, pflags := 0x81, ptype := 0x58474D,
    pstart := 0x7D000, plen := 0x4B000,
    status := { Status.reset with x := true, pv := true, pa := true, pb := true, px := true },
    moves := [.issue 0x200001FF0000005A] }

theorem witness_EveryStepKeepsTheInvariant : Inv busy ∧ ∃ t, step busy = .next t := by
  refine ⟨?_, _, rfl⟩
  constructor <;> decide

end Sys2Proof.Tests
end

section
/-! PROOFS of the family 10_state.md: what each register number reads as (R45, R46), and the write set of every command
(R42, R43). -/

namespace Sys2Proof.Proofs.StateFamily

open Sys2Proof Sys2Proof.Machine Sys2Proof.Safety

/-- Register numbers 16 to 31 read the bytes of `SB` (10_state.md R46). -/
theorem readRegister_string (s : State) (n : BitVec 6) (i : Fin 16) (h : n.toNat = 16 + i.val) :
    readRegister s n = s.sb[i].setWidth 64 := by
  have hrange : 16 ≤ n.toNat ∧ n.toNat < 32 := by omega
  rw [readRegister, dif_pos hrange]
  simp [h]

/-- A register number that 10_state.md R46 does not list reads as 0. -/
theorem readRegister_unlisted (s : State) (n : BitVec 6) (h : (11 ≤ n.toNat ∧ n.toNat ≤ 15) ∨ 32 ≤ n.toNat) :
    readRegister s n = 0 := by
  have hrange : ¬ (16 ≤ n.toNat ∧ n.toNat < 32) := by omega
  rw [readRegister, dif_neg hrange]
  split
  case h_12 => rfl
  all_goals omega

/-- Settles O15: numbers 0 to 10 by evaluation, the string bytes and the unlisted numbers by their own lemmas. -/
theorem registerReadPort : Obligations.RegisterReadPort := by
  intro s
  have hstring (i : Fin 16) : readRegister s (BitVec.ofNat 6 (16 + i.val)) = s.sb[i].setWidth 64 :=
    readRegister_string s _ i (by rw [BitVec.toNat_ofNat]; omega)
  exact ⟨rfl, rfl, rfl, rfl, rfl, rfl, rfl, rfl, rfl, rfl, rfl, hstring, readRegister_unlisted s, fun _ => ⟨_, rfl⟩⟩

/-- A SET that retires stores into its range and does nothing else but advance the position. -/
theorem storesOnly_retire_memWrite (s : State) (off : Nat) (bs : List Byte) :
    StoresOnly off bs.length s (retire (memWrite s off bs)) := by
  refine ⟨fun a ha => bufByte_memWrite_outside bs s off a ha, ?_⟩
  rw [memWrite_eq]
  rfl

@[simp] theorem bytes16_length (o : ByteOrder) (v : Half) : (bytes16 o v).length = 2 := by cases o <;> rfl

@[simp] theorem bytes32_length (o : ByteOrder) (v : Word32) : (bytes32 o v).length = 4 := by cases o <;> rfl

/-- What an effect must satisfy to be the effect of `i`: it leaves `F` and the position alone, and with the retirement it
stays inside the write set of `i` (10_state.md R42). -/
structure KeepsWriteSet (i : Instr) (effect : State → State) : Prop where
  f : ∀ s, (effect s).status.f = s.status.f
  k : ∀ s, (effect s).k = s.k
  writes : ∀ s, WritesOnly s (retire (effect s)) i

/-- A store of a SET's bytes keeps the SET's write set, if that is the range it stores. -/
theorem keepsWriteSet_memWrite {i : Instr} {off : Nat} {bs : List Byte}
    (h : ∀ s t, StoresOnly off bs.length s t → WritesOnly s t i) : KeepsWriteSet i (fun s => memWrite s off bs) where
  f _ := by simp
  k _ := by simp
  writes s := h _ _ (storesOnly_retire_memWrite s off bs)

/-- Every command is one `runCommand` on its own word, with an effect that keeps its write set. -/
theorem exec_form_keepsWriteSet (i : Instr) :
    ∃ c e, (∀ s, exec i s = runCommand (encode i) c e s) ∧ KeepsWriteSet i e := by
  cases i with
  | getu8 | getu16be | getu16le | getu32be | getu32le | getstr | csumbe | csumle | punpk =>
    exact ⟨_, _, fun _ => rfl, fun _ => rfl, fun _ => rfl, fun _ => rfl⟩
  | setu8 => exact ⟨_, _, fun _ => rfl, keepsWriteSet_memWrite fun _ _ h => h⟩
  | setu16be | setu16le =>
    exact ⟨_, _, fun _ => rfl, keepsWriteSet_memWrite fun _ _ h => by rwa [bytes16_length] at h⟩
  | setu32be | setu32le =>
    exact ⟨_, _, fun _ => rfl, keepsWriteSet_memWrite fun _ _ h => by rwa [bytes32_length] at h⟩

/-- Settles O53: a running command takes a fault, which is `faultRecorded` with its code, or its effect happens and it
retires. -/
theorem commandsKeepTheirWriteSets : Obligations.CommandsKeepTheirWriteSets := by
  intro i s t hrun hexec
  obtain ⟨c, e, hform, hkeep⟩ := exec_form_keepsWriteSet i
  rw [hform] at hexec
  obtain ⟨hhalted, -⟩ | ⟨d, -, -, rfl⟩ | ⟨-, -, rfl⟩ := runCommand_cases hexec
  · simp [hrun] at hhalted
  · exact ⟨fun hf => by simp at hf, fun _ => rfl⟩
  · exact ⟨fun _ => ⟨hkeep.writes s, by simp [hkeep.k]⟩, fun hf => by simp [hkeep.f, hrun] at hf⟩

end Sys2Proof.Proofs.StateFamily
end

section
/-! PROOFS of the family 20_memory.md: every command checks the range it touches against `BUF` (R67, R68), so no access
wraps and a zero length passes up to 512 (R69). -/

namespace Sys2Proof.Proofs.MemoryFamily

open Sys2Proof Sys2Proof.Machine Sys2Proof.Safety

/-- The check a command makes before that of its range: its operand (30_encoding.md R105, R106) or its length
(43_csum.md R173); a GET or SET makes none. -/
def firstCheck : Instr → Option Cause
  | .getstr _ len => operandCheck len Config.strMax
  | .csumbe _ len | .csumle _ len => oddLenCheck len
  | .punpk _ num => operandCheck num Config.numMax
  | _ => none

/-- The bound check of 20_memory.md R68 on the bytes the command touches (R67). -/
def rangeCheck (i : Instr) : Option Cause := boundsCheck (touched i).1 (touched i).2

/-- Every command makes its first check and then the bound check of exactly the bytes it touches (60_exceptions.md
R215). -/
theorem exec_form_checks (i : Instr) :
    ∃ e, ∀ s, exec i s = runCommand (encode i) ((firstCheck i).or (rangeCheck i)) e s := by
  cases i <;> exact ⟨_, fun _ => rfl⟩

/-- A command that retires touches bytes of `BUF` alone: otherwise its bound check would have failed. -/
theorem touched_le_of_retires {i : Instr} {s t : State} (hrun : s.status.f = false) (hexec : exec i s = .next t)
    (hretired : t.status.f = false) : (touched i).1 + (touched i).2 ≤ 512 := by
  obtain ⟨e, hform⟩ := exec_form_checks i
  rw [hform] at hexec
  obtain ⟨hhalted, -⟩ | ⟨d, -, -, rfl⟩ | ⟨-, hpass, -⟩ := runCommand_cases hexec
  · simp [hrun] at hhalted
  · simp at hretired
  · obtain ⟨-, hrange⟩ := Option.or_eq_none_iff.1 hpass
    by_contra hout
    have hfail : rangeCheck i = some .bounds := boundsCheck_bad (by omega)
    simp [hfail] at hrange

/-- A command whose first check passes and whose range ends outside `BUF` is `Bounds`. -/
theorem exec_bounds_of_outside {i : Instr} {s : State} (hrun : s.status.f = false) (hfirst : firstCheck i = none)
    (hout : 512 < (touched i).1 + (touched i).2) : exec i s = .next (faultRecorded 4 (encode i) s) := by
  obtain ⟨e, hform⟩ := exec_form_checks i
  have hfail : rangeCheck i = some .bounds := boundsCheck_bad hout
  rw [hform, hfirst, hfail]
  exact runCommand_fault _ .bounds e s hrun

/-- A command on which the bound check alone is left to make retires if its range is inside `BUF`. -/
theorem runCommand_retires_of_inside {w : Command} {off n : Nat} {e : State → State} {s : State}
    (hrun : s.status.f = false) (hin : off + n ≤ 512) : runCommand w (boundsCheck off n) e s = .next (retire (e s)) := by
  rw [boundsCheck_ok hin, runCommand_retires _ _ _ hrun]

/-- With `len = 0` the string field is all zeros (42_getstr.md R161). -/
theorem stringField_zero (s : State) (off : Nat) : stringField s off 0 = Vector.replicate 16 0 := by
  ext i hi
  simp [stringField]

/-- GETSTR with `len = 0` reads the empty string (42_getstr.md R161). -/
theorem exec_getstr_zero {s : State} {off : Nat} (hrun : s.status.f = false) (hoff : off ≤ 512) :
    exec (.getstr off 0) s = .next { s with sb := Vector.replicate 16 0, slen := 0, k := s.k + 1 } := by
  rw [← stringField_zero s off]
  exact runCommand_retires_of_inside (n := 0) hrun hoff

/-- CSUM.BE with `len = 0` is the empty sum (43_csum.md R171). -/
theorem exec_csumbe_zero {s : State} {off : Nat} (hrun : s.status.f = false) (hoff : off ≤ 512) :
    exec (.csumbe off 0) s = .next { s with sum := 0, status := { s.status with x := false }, k := s.k + 1 } :=
  runCommand_retires_of_inside (n := 0) hrun hoff

/-- CSUM.LE with `len = 0` is the empty sum (43_csum.md R172). -/
theorem exec_csumle_zero {s : State} {off : Nat} (hrun : s.status.f = false) (hoff : off ≤ 512) :
    exec (.csumle off 0) s = .next { s with sum := 0, status := { s.status with x := false }, k := s.k + 1 } :=
  runCommand_retires_of_inside (n := 0) hrun hoff

/-- Settles O23: the bound check holds of whatever retires; on a 16-bit access and on a zero length the first check
passes, so that the bound check decides alone. -/
theorem noWrapAndZeroLengths : Obligations.NoWrapAndZeroLengths := by
  intro s hrun
  have h511 : 512 < 511 + 2 := by decide
  refine ⟨fun i t => touched_le_of_retires hrun, fun i hi => ?get16, fun v i hi => ?set16,
    fun off hoff => ⟨exec_getstr_zero hrun hoff, exec_csumbe_zero hrun hoff, exec_csumle_zero hrun hoff⟩,
    fun off hoff i hi => ?zeroLength⟩
  case get16 | set16 =>
    simp only [List.mem_cons, List.not_mem_nil, or_false] at hi
    obtain rfl | rfl := hi <;> exact exec_bounds_of_outside hrun rfl h511
  case zeroLength =>
    simp only [List.mem_cons, List.not_mem_nil, or_false] at hi
    obtain rfl | rfl | rfl := hi <;> exact exec_bounds_of_outside hrun rfl hoff

end Sys2Proof.Proofs.MemoryFamily
end

section
/-! PROOFS of the family 30_encoding.md: a word is a command or it raises `Illegal` (R104), each must-be-zero rule makes
a word illegal (R98 to R102), and the two pseudo-instructions (R107). -/

namespace Sys2Proof.Proofs.EncodingFamily

open Sys2Proof Sys2Proof.Machine Sys2Proof.Safety Sys2Proof.Proofs.MemoryFamily

/-! ## The decoder's checks: what a command has passed -/

theorem decodeUnordered_eq_ok {c : Fields} {r : Except Reject Instr} {i : Instr} :
    decodeUnordered c r = .ok i ↔ c.e = 0 ∧ r = .ok i := by
  unfold decodeUnordered
  split <;> simp_all

theorem decodeOrdered_ok {c : Fields} {be le : Except Reject Instr} {i : Instr} (h : decodeOrdered c be le = .ok i) :
    be = .ok i ∨ le = .ok i := by
  unfold decodeOrdered at h
  split at h
  · exact .inl h
  · exact .inr h

theorem decodeGet_eq_ok {c : Fields} {i j : Instr} : decodeGet c j = .ok i ↔ c.aux = 0 ∧ c.imm = 0 ∧ j = i := by
  unfold decodeGet
  split_ifs <;> simp_all

theorem decodeSet_eq_ok {c : Fields} {width : Nat} {i j : Instr} :
    decodeSet c width j = .ok i ↔ c.aux = 0 ∧ c.imm.toNat < 2 ^ width ∧ j = i := by
  unfold decodeSet
  split_ifs <;> simp_all

theorem decodeRange_eq_ok {c : Fields} {i j : Instr} : decodeRange c j = .ok i ↔ c.imm = 0 ∧ j = i := by
  unfold decodeRange
  split_ifs <;> simp_all

/-- The rules R98 to R102 on the fields of a word, one by one. -/
structure LegalFields (c : Fields) : Prop where
  /-- the opcode is one of the nine (R98) -/
  opc : c.opc.toNat ∈ [0x10, 0x11, 0x12, 0x20, 0x21, 0x22, 0x30, 0x40, 0x50]
  /-- the reserved bits are 0 (R99) -/
  rsv : c.rsv = 0
  /-- no order bit where there is no byte order (R100) -/
  e : c.opc.toNat ∈ [0x10, 0x20, 0x30, 0x50] → c.e = 0
  /-- `aux` is 0 on a GET or SET (R101) -/
  aux : c.opc.toNat ∈ [0x10, 0x11, 0x12, 0x20, 0x21, 0x22] → c.aux = 0
  /-- `imm` is 0 on a command that takes no value (R102) -/
  imm : c.opc.toNat ∈ [0x10, 0x11, 0x12, 0x30, 0x40, 0x50] → c.imm = 0
  /-- the value of SETU8 fits (R102) -/
  val8 : c.opc.toNat = 0x20 → c.imm.toNat < 2 ^ 8
  /-- the value of SETU16 fits (R102) -/
  val16 : c.opc.toNat = 0x21 → c.imm.toNat < 2 ^ 16

/-- Whatever the decoder accepts obeys every rule: along the opcode map, the row's own checks have passed. -/
theorem legalFields_of_decodeFields_ok {c : Fields} {i : Instr} (h : decodeFields c = .ok i) : LegalFields c := by
  unfold decodeFields at h
  by_cases hrsv : c.rsv = 0
  case neg =>
    rw [if_pos hrsv] at h
    cases h
  rw [if_neg (not_not_intro hrsv)] at h
  split at h
  case h_1 hopc | h_4 hopc | h_7 hopc | h_9 hopc =>
    obtain ⟨he, hrow⟩ := decodeUnordered_eq_ok.1 h
    simp only [decodeGet_eq_ok, decodeSet_eq_ok, decodeRange_eq_ok, Nat.reducePow] at hrow
    constructor <;> simp [hopc, hrsv, he, hrow]
  case h_2 hopc | h_3 hopc | h_5 hopc | h_6 hopc | h_8 hopc =>
    have hrow := decodeOrdered_ok h
    simp only [decodeGet_eq_ok, decodeSet_eq_ok, decodeRange_eq_ok, Nat.reducePow] at hrow
    obtain hrow | hrow := hrow <;> constructor <;> simp [hopc, hrsv, hrow]
  case h_10 => cases h

/-! ## A word is a command or illegal -/

theorem issueWord_of_decode_ok {w : Command} {i : Instr} (h : decode w = .ok i) (s : State) :
    issueWord w s = exec i s := by
  simp [issueWord, h]

/-- A word the decoder rejects, for whatever reason, is `Illegal` (60_exceptions.md R211). -/
theorem raisesIllegal_of_decode_error {w : Command} {r : Reject} (h : decode w = .error r) : RaisesIllegal w := by
  intro s hrun
  simp only [issueWord, h]
  exact runCommand_fault w .illegal _ s hrun

theorem raisesIllegal_of_not_legalFields {w : Command} (h : ¬ LegalFields (cutFields w)) : RaisesIllegal w := by
  cases hdec : decode w with
  | ok i => exact absurd (legalFields_of_decodeFields_ok hdec) h
  | error r => exact raisesIllegal_of_decode_error hdec

theorem operandCheck_ne_illegal (v max : Nat) : operandCheck v max ≠ some .illegal := by
  unfold operandCheck
  split <;> simp

theorem oddLenCheck_ne_illegal (len : Nat) : oddLenCheck len ≠ some .illegal := by
  unfold oddLenCheck
  split <;> simp

theorem boundsCheck_ne_illegal (off n : Nat) : boundsCheck off n ≠ some .illegal := by
  unfold boundsCheck
  split <;> simp

/-- No check of a command fails with `Illegal`: that fault is the decoder's alone (60_exceptions.md R215). -/
theorem checks_ne_illegal (i : Instr) : (firstCheck i).or (rangeCheck i) ≠ some .illegal := by
  intro h
  obtain hfirst | ⟨-, hrange⟩ := Option.or_eq_some_iff.1 h
  · cases i with
    | getstr | punpk => exact operandCheck_ne_illegal _ _ hfirst
    | csumbe | csumle => exact oddLenCheck_ne_illegal _ hfirst
    | _ => cases hfirst
  · exact boundsCheck_ne_illegal _ _ hrange

/-- Every command is one `runCommand` with its checks and an effect that leaves `F` alone. -/
theorem exec_form_keeps_f (i : Instr) :
    ∃ e, (∀ s, exec i s = runCommand (encode i) ((firstCheck i).or (rangeCheck i)) e s) ∧
      ∀ s, (e s).status.f = s.status.f := by
  cases i <;> exact ⟨_, fun _ => rfl, fun _ => by simp⟩

/-- A command never takes `Illegal`: it faults with another code or retires with `F = 0`. -/
theorem exec_ne_illegal (i : Instr) (w : Command) {s : State} (hrun : s.status.f = false) :
    exec i s ≠ .next (faultRecorded 1 w s) := by
  intro h
  obtain ⟨e, hform, hkeeps⟩ := exec_form_keeps_f i
  rw [hform] at h
  obtain ⟨hhalted, -⟩ | ⟨d, -, hcheck, htaken⟩ | ⟨-, -, hretired⟩ := runCommand_cases h
  · simp [hrun] at hhalted
  · have hcode : 1 = causeCode d := congrArg (·.status.fc) htaken
    cases d with
    | illegal => exact checks_ne_illegal i hcheck
    | operand | oddLen | bounds => cases hcode
  · have hf : true = (e s).status.f := congrArg (·.status.f) hretired
    simp [hkeeps, hrun] at hf

/-- Settles O6: a command shows on the reset machine that it is not illegal, and a rejected word is illegal. -/
theorem everyWordIsCommandOrIllegal : Obligations.EveryWordIsCommandOrIllegal := by
  intro w
  constructor
  · rintro ⟨i, hdec⟩ hillegal
    have hissue := hillegal State.reset rfl
    rw [issueWord_of_decode_ok hdec] at hissue
    exact exec_ne_illegal i w rfl hissue
  · intro hlegal
    cases hdec : decode w with
    | ok i => exact ⟨i, rfl⟩
    | error r => exact absurd (raisesIllegal_of_decode_error hdec) hlegal

/-! ## The reserved encodings -/

/-- The bits of `imm` from `n` on are 0 if its value fits `n` bits. -/
theorem extractLsb'_eq_zero_of_imm_lt {w : Command} {n m : Nat} (hm : n + m = 32)
    (h : (cutFields w).imm.toNat < 2 ^ n) : w.extractLsb' n m = 0 := by
  have himm : (cutFields w).imm.toNat = w.toNat % (2 ^ n * 2 ^ m) := by
    rw [← pow_add, hm]
    exact BitVec.extractLsb'_toNat 0 32 w
  apply BitVec.eq_of_toNat_eq
  rw [BitVec.extractLsb'_toNat, Nat.shiftRight_eq_div_pow, ← Nat.mod_mul_right_div_self, ← himm, Nat.div_eq_of_lt h]
  rfl

/-- Settles O5: each clause breaks one rule of `LegalFields`. -/
theorem reservedEncodingsAreIllegal : Obligations.ReservedEncodingsAreIllegal := by
  intro w
  refine ⟨fun h => ?opc, fun h => ?rsv, fun h hopc => ?e, fun h hopc => ?aux, fun h hopc => ?imm,
    fun h hopc => ?val8, fun h hopc => ?val16⟩ <;> refine raisesIllegal_of_not_legalFields fun hlegal => ?_
  case opc => exact h hlegal.opc
  case rsv => exact h hlegal.rsv
  case e =>
    have hbit : (cutFields w).e.getLsbD 0 = w.getLsbD 55 := BitVec.getLsbD_extractLsb' 55 1 w 0
    rw [hlegal.e hopc, h] at hbit
    cases hbit
  case aux => exact h (hlegal.aux hopc)
  case imm => exact h (hlegal.imm hopc)
  case val8 => exact h (extractLsb'_eq_zero_of_imm_lt rfl (hlegal.val8 hopc))
  case val16 => exact h (extractLsb'_eq_zero_of_imm_lt rfl (hlegal.val16 hopc))

/-! ## The pseudo-instructions -/

theorem slotAddress_low {n : Nat} (h : n ≤ 3) : slotAddress n = 0x1C6 + 12 * n := if_pos h

theorem slotAddress_high {n : Nat} (h : 4 ≤ n) : slotAddress n = 0x156 + 12 * (n - 4) := if_neg (by omega)

/-- Settles O7: the two formulas of the slot's address. -/
theorem pseudoInstructionsExpand : Obligations.PseudoInstructionsExpand := by
  refine ⟨rfl, fun n hn => ?_, fun n hn _ => ?_⟩
  · rw [punpks, slotAddress_low hn]
  · rw [punpks, slotAddress_high hn]

end Sys2Proof.Proofs.EncodingFamily
end

section
/-! PROOFS of the family 40_get.md: a command's word is the only one that decodes to it (30_encoding.md R91, R96), and
what each GET leaves in `RES` (R121 to R125). -/

namespace Sys2Proof.Proofs.GetFamily

open Sys2Proof Sys2Proof.Machine Sys2Proof.Safety Sys2Proof.Proofs.MemoryFamily Sys2Proof.Proofs.EncodingFamily

/-! ## The words of a command -/

theorem decodeOrdered_eq_ok {c : Fields} {be le : Except Reject Instr} {i : Instr} :
    decodeOrdered c be le = .ok i ↔ c.e = 0 ∧ be = .ok i ∨ c.e = 1 ∧ le = .ok i := by
  unfold decodeOrdered
  obtain he | he := BitVec.eq_zero_or_eq_one c.e <;> simp [he]

theorem fitsField_toNat (v : BitVec 10) : fitsField v.toNat = true := decide_eq_true v.isLt

theorem eq_setFields {c : Fields} {opc : BitVec 8} {e : BitVec 1} (hopc : c.opc.toNat = opc.toNat) (hrsv : c.rsv = 0)
    (he : c.e = e) (haux : c.aux = 0) : c = setFields opc e c.off.toNat c.imm := by
  have hopc : c.opc = opc := BitVec.eq_of_toNat_eq hopc
  cases c
  simp_all [setFields]

theorem eq_rangeFields {c : Fields} {opc : BitVec 8} {e : BitVec 1} (hopc : c.opc.toNat = opc.toNat) (hrsv : c.rsv = 0)
    (he : c.e = e) (himm : c.imm = 0) : c = rangeFields opc e c.off.toNat c.aux.toNat := by
  have hopc : c.opc = opc := BitVec.eq_of_toNat_eq hopc
  cases c
  simp_all [rangeFields]

theorem eq_getFields {c : Fields} {opc : BitVec 8} {e : BitVec 1} (hopc : c.opc.toNat = opc.toNat) (hrsv : c.rsv = 0)
    (he : c.e = e) (haux : c.aux = 0) (himm : c.imm = 0) : c = getFields opc e c.off.toNat := by
  have hset := eq_setFields hopc hrsv he haux
  rwa [himm] at hset

/-- A value that fits is its own truncation, extended again (30_encoding.md R97, R102). -/
theorem setWidth_setWidth_of_lt {v : Word32} {n : Nat} (h : v.toNat < 2 ^ n) : (v.setWidth n).setWidth 32 = v := by
  apply BitVec.eq_of_toNat_eq
  rw [BitVec.toNat_setWidth, BitVec.toNat_setWidth, Nat.mod_eq_of_lt h, Nat.mod_eq_of_lt v.isLt]

/-- The decoder accepts only the fields of the command it answers, and the operands come from fields: along the opcode
map (30_encoding.md R94), the row's checks leave no other bit free. -/
theorem fieldsOf_of_decodeFields_ok {c : Fields} {i : Instr} (h : decodeFields c = .ok i) :
    wellFormed i = true ∧ c = fieldsOf i := by
  have hrsv := (legalFields_of_decodeFields_ok h).rsv
  unfold decodeFields at h
  rw [if_neg (not_not_intro hrsv)] at h
  split at h
  case h_1 hopc =>
    obtain ⟨he, hrow⟩ := decodeUnordered_eq_ok.1 h
    obtain ⟨haux, himm, rfl⟩ := decodeGet_eq_ok.1 hrow
    exact ⟨fitsField_toNat _, eq_getFields hopc hrsv he haux himm⟩
  case h_2 hopc | h_3 hopc =>
    obtain ⟨he, hrow⟩ | ⟨he, hrow⟩ := decodeOrdered_eq_ok.1 h <;>
    · obtain ⟨haux, himm, rfl⟩ := decodeGet_eq_ok.1 hrow
      exact ⟨fitsField_toNat _, eq_getFields hopc hrsv he haux himm⟩
  case h_4 hopc =>
    obtain ⟨he, hrow⟩ := decodeUnordered_eq_ok.1 h
    obtain ⟨haux, himm, rfl⟩ := decodeSet_eq_ok.1 hrow
    refine ⟨fitsField_toNat _, ?_⟩
    rw [fieldsOf, setWidth_setWidth_of_lt himm]
    exact eq_setFields hopc hrsv he haux
  case h_5 hopc =>
    obtain ⟨he, hrow⟩ | ⟨he, hrow⟩ := decodeOrdered_eq_ok.1 h <;>
    · obtain ⟨haux, himm, rfl⟩ := decodeSet_eq_ok.1 hrow
      refine ⟨fitsField_toNat _, ?_⟩
      rw [fieldsOf, setWidth_setWidth_of_lt himm]
      exact eq_setFields hopc hrsv he haux
  case h_6 hopc =>
    obtain ⟨he, hrow⟩ | ⟨he, hrow⟩ := decodeOrdered_eq_ok.1 h <;>
    · obtain ⟨haux, -, rfl⟩ := decodeSet_eq_ok.1 hrow
      exact ⟨fitsField_toNat _, eq_setFields hopc hrsv he haux⟩
  case h_7 hopc | h_9 hopc =>
    obtain ⟨he, hrow⟩ := decodeUnordered_eq_ok.1 h
    obtain ⟨himm, rfl⟩ := decodeRange_eq_ok.1 hrow
    exact ⟨Bool.and_eq_true_iff.2 ⟨fitsField_toNat _, fitsField_toNat _⟩, eq_rangeFields hopc hrsv he himm⟩
  case h_8 hopc =>
    obtain ⟨he, hrow⟩ | ⟨he, hrow⟩ := decodeOrdered_eq_ok.1 h <;>
    · obtain ⟨himm, rfl⟩ := decodeRange_eq_ok.1 hrow
      exact ⟨Bool.and_eq_true_iff.2 ⟨fitsField_toNat _, fitsField_toNat _⟩, eq_rangeFields hopc hrsv he himm⟩
  case h_10 => cases h

theorem toNat_ofNat_of_fitsField {n : Nat} (h : fitsField n = true) : (BitVec.ofNat 10 n).toNat = n := by
  rw [BitVec.toNat_ofNat]
  exact Nat.mod_eq_of_lt (of_decide_eq_true h)

/-- The value of a SET, zero-extended, passes the check of its width (30_encoding.md R102). -/
theorem toNat_setWidth_lt {n : Nat} (v : BitVec n) (h : n ≤ 32) : (v.setWidth 32).toNat < 2 ^ n := by
  rw [BitVec.toNat_setWidth_of_le h]
  exact v.isLt

/-- The decoder gives back every well-formed command from its fields. -/
theorem decodeFields_fieldsOf {i : Instr} (h : wellFormed i = true) : decodeFields (fieldsOf i) = .ok i := by
  cases i with
  | getu8 off | getu16be off | getu16le off | getu32be off | getu32le off =>
    have hoff := toNat_ofNat_of_fitsField h
    simp [fieldsOf, getFields, decodeFields, decodeUnordered, decodeOrdered, decodeGet, hoff]
  | setu8 off val | setu16be off val | setu16le off val | setu32be off val | setu32le off val =>
    have hoff := toNat_ofNat_of_fitsField h
    have hval := toNat_setWidth_lt val (by decide)
    simpa [fieldsOf, setFields, decodeFields, decodeUnordered, decodeOrdered, decodeSet, hoff] using hval
  | getstr off aux | csumbe off aux | csumle off aux | punpk off aux =>
    obtain ⟨hoff, haux⟩ := Bool.and_eq_true_iff.1 h
    have hoff := toNat_ofNat_of_fitsField hoff
    have haux := toNat_ofNat_of_fitsField haux
    simp [fieldsOf, rangeFields, decodeFields, decodeUnordered, decodeOrdered, decodeRange, hoff, haux]

theorem decodeFields_eq_ok {c : Fields} {i : Instr} :
    decodeFields c = .ok i ↔ wellFormed i = true ∧ c = fieldsOf i :=
  ⟨fieldsOf_of_decodeFields_ok, fun ⟨hwf, hc⟩ => hc ▸ decodeFields_fieldsOf hwf⟩

/-- The word of a well-formed command, and no other word, decodes to it. -/
theorem decode_eq_ok {w : Command} {i : Instr} : decode w = .ok i ↔ wellFormed i = true ∧ w = encode i := by
  rw [decode, decodeFields_eq_ok]
  refine and_congr_right fun _ => ⟨fun h => ?_, fun h => ?_⟩
  · rw [encode, ← h, joinFields_cutFields]
  · rw [h, encode, cutFields_joinFields]

/-- To find a command's only word it is enough to compute the encoder's. -/
theorem hasWord_of_toNat_encode {i : Instr} {n : Nat} (h : wellFormed i = true → (encode i).toNat = n) :
    HasWord i n := by
  intro w
  rw [decode_eq_ok]
  refine and_congr_right fun hwf => ?_
  rw [← h hwf, BitVec.ofNat_toNat, BitVec.setWidth_eq]

/-- The word of a GET: its opcode, its byte order and its offset (40_get.md R120). -/
theorem hasWord_get {i : Instr} {opc : BitVec 8} {e : BitVec 1} {off base : Nat}
    (hfields : fieldsOf i = getFields opc e off) (hwf : wellFormed i = fitsField off)
    (hbase : opc.toNat * 2 ^ 56 + e.toNat * 2 ^ 55 = base) : HasWord i (base + off * 2 ^ 32) := by
  refine hasWord_of_toNat_encode fun hfits => ?_
  rw [hwf] at hfits
  rw [encode, hfields, joinFields_toNat, ← hbase]
  simp [getFields, toNat_ofNat_of_fitsField hfits]

/-! ## What a GET does -/

/-- The machine's 16-bit big-endian read, extended to `RES`, is the spec's value (20_memory.md R62). -/
theorem zeroExtend_read16_big_toNat (s : State) (a : Nat) : (zeroExtend (read16 .big s a)).toNat = big16 s a :=
  (zeroExtend_toNat _ (by decide)).trans (join16_big_toNat _ _)

/-- The machine's 16-bit little-endian read, extended to `RES`, is the spec's value (20_memory.md R63). -/
theorem zeroExtend_read16_little_toNat (s : State) (a : Nat) : (zeroExtend (read16 .little s a)).toNat = little16 s a :=
  (zeroExtend_toNat _ (by decide)).trans (join16_little_toNat _ _)

/-- The machine's 32-bit big-endian read is the spec's value (20_memory.md R62). -/
theorem read32_big_toNat (s : State) (a : Nat) : (read32 .big s a).toNat = big32 s a := join32_big_toNat _ _ _ _

/-- The machine's 32-bit little-endian read is the spec's value (20_memory.md R63). -/
theorem read32_little_toNat (s : State) (a : Nat) : (read32 .little s a).toNat = little32 s a :=
  join32_little_toNat _ _ _ _

/-- A GET inside `BUF` leaves its value in `RES`, and nothing else but the position changes (40_get.md R120). -/
theorem get_reads {i : Instr} {off n x : Nat} {value : State → Result} {s : State} (hvalue : (value s).toNat = x)
    (hform : exec i s = runCommand (encode i) (boundsCheck off n) (fun t => setRes (value t) t) s)
    (hrun : s.status.f = false) (hin : off + n ≤ 512) :
    ∃ t, exec i s = .next t ∧ t.res.toNat = x ∧ t = { s with res := t.res, k := s.k + 1 } :=
  ⟨_, hform.trans (runCommand_retires_of_inside hrun hin), hvalue, rfl⟩

/-- Settles O24: the byte at `off` keeps its value under zero extension, and `RES` has no other bit set. -/
theorem getU8ReadsOneByte : Obligations.GetU8ReadsOneByte := by
  intro off s
  refine ⟨hasWord_get (opc := 0x10) (e := 0) rfl rfl rfl, ?inside, fun hrun hoff => ?outside⟩
  case inside =>
    exact get_reads (value := fun t => zeroExtend (bufByte t off)) (zeroExtend_toNat (bufByte s off) (by decide)) rfl
  case outside => exact exec_bounds_of_outside hrun rfl (Nat.add_le_add_right hoff 1)

/-- Settles O25: the lower address is the more significant byte, and the 16 bits are zero-extended. -/
theorem getU16BigEndianReads : Obligations.GetU16BigEndianReads := by
  intro off s
  refine ⟨hasWord_get (opc := 0x11) (e := 0) rfl rfl rfl, ?inside, fun hrun hoff => ?outside⟩
  case inside =>
    exact get_reads (value := fun t => zeroExtend (read16 .big t off)) (zeroExtend_read16_big_toNat s off) rfl
  case outside => exact exec_bounds_of_outside hrun rfl (Nat.add_le_add_right hoff 2)

/-- Settles O26: the lower address is the less significant byte, and the 16 bits are zero-extended. -/
theorem getU16LittleEndianReads : Obligations.GetU16LittleEndianReads := by
  intro off s
  refine ⟨hasWord_get (opc := 0x11) (e := 1) rfl rfl rfl, ?inside, fun hrun hoff => ?outside⟩
  case inside =>
    exact get_reads (value := fun t => zeroExtend (read16 .little t off)) (zeroExtend_read16_little_toNat s off) rfl
  case outside => exact exec_bounds_of_outside hrun rfl (Nat.add_le_add_right hoff 2)

/-- Settles O27: four bytes fill `RES`, the lowest address the most significant. -/
theorem getU32BigEndianReads : Obligations.GetU32BigEndianReads := by
  intro off s
  refine ⟨hasWord_get (opc := 0x12) (e := 0) rfl rfl rfl, ?inside, fun hrun hoff => ?outside⟩
  case inside => exact get_reads (value := fun t => read32 .big t off) (read32_big_toNat s off) rfl
  case outside => exact exec_bounds_of_outside hrun rfl (Nat.add_le_add_right hoff 4)

/-- Settles O28: four bytes fill `RES`, the lowest address the least significant. -/
theorem getU32LittleEndianReads : Obligations.GetU32LittleEndianReads := by
  intro off s
  refine ⟨hasWord_get (opc := 0x12) (e := 1) rfl rfl rfl, ?inside, fun hrun hoff => ?outside⟩
  case inside => exact get_reads (value := fun t => read32 .little t off) (read32_little_toNat s off) rfl
  case outside => exact exec_bounds_of_outside hrun rfl (Nat.add_le_add_right hoff 4)

end Sys2Proof.Proofs.GetFamily
end

section
/-! PROOFS of the family 41_set.md: the words of each SET, the bytes it stores and its frame, and its `Bounds` (R141 to
R145). -/

namespace Sys2Proof.Proofs.SetFamily

open Sys2Proof Sys2Proof.Machine Sys2Proof.Safety Sys2Proof.Proofs.StateFamily Sys2Proof.Proofs.MemoryFamily
  Sys2Proof.Proofs.GetFamily

/-- The word of a SET: its opcode, its byte order, its offset and its value `x` (30_encoding.md R97). -/
theorem hasWord_set {i : Instr} {opc : BitVec 8} {e : BitVec 1} {off base x : Nat} {imm : Word32}
    (hfields : fieldsOf i = setFields opc e off imm) (hwf : wellFormed i = fitsField off)
    (hbase : opc.toNat * 2 ^ 56 + e.toNat * 2 ^ 55 = base) (himm : imm.toNat = x) :
    HasWord i (base + off * 2 ^ 32 + x) := by
  refine hasWord_of_toNat_encode fun hfits => ?_
  rw [hwf] at hfits
  rw [encode, hfields, joinFields_toNat, ← hbase, ← himm]
  simp [setFields, toNat_ofNat_of_fitsField hfits]

/-- A SET inside `BUF` leaves its bytes at `off` and on, and nothing else but the position changes (41_set.md R140). -/
theorem set_stores {i : Instr} {off : Nat} {bs : List Byte} {s : State}
    (hform : exec i s = runCommand (encode i) (boundsCheck off bs.length) (fun t => memWrite t off bs) s)
    (hrun : s.status.f = false) (hin : off + bs.length ≤ 512) :
    ∃ t, exec i s = .next t ∧ (∀ {j b}, bs[j]? = some b → bufByte t (off + j) = b) ∧ StoresOnly off bs.length s t ∧
      t.k = s.k + 1 := by
  refine ⟨_, hform.trans (runCommand_retires_of_inside hrun hin), fun hbyte => ?_, storesOnly_retire_memWrite s off bs,
    by simp⟩
  obtain ⟨hj, rfl⟩ := List.getElem?_eq_some_iff.1 hbyte
  exact bufByte_memWrite_inside bs s off _ hj

/-- Settles O31: a list of one byte is stored. -/
theorem setU8StoresOneByte : Obligations.SetU8StoresOneByte := by
  intro off val s
  refine ⟨hasWord_set (opc := 0x20) (e := 0) rfl rfl rfl (BitVec.toNat_setWidth_of_le (by decide)),
    fun hrun hin => ?inside, fun hrun hoff => ?outside⟩
  case inside =>
    obtain ⟨t, hexec, hbytes, hstores, hk⟩ := set_stores (i := .setu8 off val) (bs := [val]) rfl hrun hin
    exact ⟨t, hexec, hbytes (j := 0) rfl, hstores, hk⟩
  case outside => exact exec_bounds_of_outside hrun rfl (Nat.add_le_add_right hoff 1)

/-- Settles O32: the two bytes are stored most significant first. -/
theorem setU16BigEndianStores : Obligations.SetU16BigEndianStores := by
  intro off val s
  refine ⟨hasWord_set (opc := 0x21) (e := 0) rfl rfl rfl (BitVec.toNat_setWidth_of_le (by decide)),
    fun hrun hin => ?inside, fun hrun hoff => ?outside⟩
  case inside =>
    obtain ⟨t, hexec, hbytes, hstores, hk⟩ := set_stores (i := .setu16be off val) (bs := bytes16 .big val) rfl hrun hin
    exact ⟨t, hexec, hbytes (j := 0) rfl, hbytes (j := 1) rfl, hstores, hk⟩
  case outside => exact exec_bounds_of_outside hrun rfl (Nat.add_le_add_right hoff 2)

/-- Settles O33: the two bytes are stored least significant first. -/
theorem setU16LittleEndianStores : Obligations.SetU16LittleEndianStores := by
  intro off val s
  refine ⟨hasWord_set (opc := 0x21) (e := 1) rfl rfl rfl (BitVec.toNat_setWidth_of_le (by decide)),
    fun hrun hin => ?inside, fun hrun hoff => ?outside⟩
  case inside =>
    obtain ⟨t, hexec, hbytes, hstores, hk⟩ :=
      set_stores (i := .setu16le off val) (bs := bytes16 .little val) rfl hrun hin
    exact ⟨t, hexec, hbytes (j := 0) rfl, hbytes (j := 1) rfl, hstores, hk⟩
  case outside => exact exec_bounds_of_outside hrun rfl (Nat.add_le_add_right hoff 2)

/-- Settles O34: the value is `imm` itself, and its four bytes are stored most significant first. -/
theorem setU32BigEndianStores : Obligations.SetU32BigEndianStores := by
  intro off val s
  refine ⟨hasWord_set (opc := 0x22) (e := 0) rfl rfl rfl rfl, fun hrun hin => ?inside, fun hrun hoff => ?outside⟩
  case inside =>
    obtain ⟨t, hexec, hbytes, hstores, hk⟩ := set_stores (i := .setu32be off val) (bs := bytes32 .big val) rfl hrun hin
    exact ⟨t, hexec, hbytes (j := 0) rfl, hbytes (j := 1) rfl, hbytes (j := 2) rfl, hbytes (j := 3) rfl, hstores, hk⟩
  case outside => exact exec_bounds_of_outside hrun rfl (Nat.add_le_add_right hoff 4)

/-- Settles O35: the value is `imm` itself, and its four bytes are stored least significant first. -/
theorem setU32LittleEndianStores : Obligations.SetU32LittleEndianStores := by
  intro off val s
  refine ⟨hasWord_set (opc := 0x22) (e := 1) rfl rfl rfl rfl, fun hrun hin => ?inside, fun hrun hoff => ?outside⟩
  case inside =>
    obtain ⟨t, hexec, hbytes, hstores, hk⟩ :=
      set_stores (i := .setu32le off val) (bs := bytes32 .little val) rfl hrun hin
    exact ⟨t, hexec, hbytes (j := 0) rfl, hbytes (j := 1) rfl, hbytes (j := 2) rfl, hbytes (j := 3) rfl, hstores, hk⟩
  case outside => exact exec_bounds_of_outside hrun rfl (Nat.add_le_add_right hoff 4)

end Sys2Proof.Proofs.SetFamily
end

section
/-! PROOFS of the family 42_getstr.md: the words of GETSTR, the field in `SB`, its trimmed length in `SLEN`, and its two
faults (R161, R162). -/

namespace Sys2Proof.Proofs.GetstrFamily

open Sys2Proof Sys2Proof.Machine Sys2Proof.Safety Sys2Proof.Proofs.MemoryFamily Sys2Proof.Proofs.GetFamily

/-! ## The commands with a second operand -/

/-- The word of a GETSTR, CSUM or PUNPK: its opcode, its byte order, its second operand and its offset (30_encoding.md
R97). -/
theorem hasWord_range {i : Instr} {opc : BitVec 8} {e : BitVec 1} {off aux base : Nat}
    (hfields : fieldsOf i = rangeFields opc e off aux) (hwf : wellFormed i = (fitsField off && fitsField aux))
    (hbase : opc.toNat * 2 ^ 56 + e.toNat * 2 ^ 55 = base) : HasWord i (base + aux * 2 ^ 42 + off * 2 ^ 32) := by
  refine hasWord_of_toNat_encode fun hfits => ?_
  rw [hwf] at hfits
  obtain ⟨hoff, haux⟩ := Bool.and_eq_true_iff.1 hfits
  rw [encode, hfields, joinFields_toNat, ← hbase]
  simp [rangeFields, toNat_ofNat_of_fitsField hoff, toNat_ofNat_of_fitsField haux]

/-- The first check decides the fault before the bound check is made (60_exceptions.md R215). -/
theorem exec_fault_of_firstCheck {i : Instr} {c : Cause} {s : State} (hrun : s.status.f = false)
    (hfirst : firstCheck i = some c) : exec i s = .next (takeFault c (encode i) s) := by
  obtain ⟨e, hform⟩ := exec_form_checks i
  rw [hform, hfirst, Option.some_or, runCommand_fault _ c e s hrun]

/-! ## What GETSTR does -/

/-- Byte `i` of the string field is the field's byte, and 0 above the field (42_getstr.md R161). -/
theorem stringField_getElem (s : State) (off len : Nat) (i : Fin 16) :
    (stringField s off len)[i] = if i.val < len then bufByte s (off + i.val) else 0 :=
  Vector.getElem_ofFn i.isLt

/-- The trimmed length of a field of up to 16 bytes loses no bit in the 5 bits of `SLEN`. -/
theorem ofNat_trimmedLength_toNat (pad : Byte → Bool) (s : State) (off : Nat) {len : Nat} (hlen : len ≤ 16) :
    (BitVec.ofNat 5 (trimmedLength pad s off len)).toNat = trimmedLength pad s off len := by
  have hle := trimmedLength_le pad s off len
  rw [BitVec.toNat_ofNat]
  exact Nat.mod_eq_of_lt (by omega)

/-- A GETSTR that passes both checks puts the field into `SB` and its trimmed length into `SLEN`, and retires. -/
theorem exec_getstr_of_inside {s : State} {off len : Nat} (hrun : s.status.f = false) (hlen : len ≤ 16)
    (hin : off + len ≤ 512) :
    exec (.getstr off len) s =
      .next (retire (setString (stringField s off len) (BitVec.ofNat 5 (trimmedLength isPadding s off len)) s)) := by
  rw [exec, execGetstr, operandCheck_ok hlen]
  exact runCommand_retires_of_inside hrun hin

/-- Settles O39: inside both limits, `SLEN` holds the trimmed length, which removes padding bytes alone and stops at the
first that is none; outside them, the operand check comes before the bound check. -/
theorem getstrReadsAndTrims : Obligations.GetstrReadsAndTrims := by
  intro off len s
  refine ⟨hasWord_range (opc := 0x30) (e := 0) rfl rfl rfl, fun hrun hlen hin => ?inside,
    fun hrun hlong => ?operand, fun hrun hlen hout => ?bounds⟩
  case inside =>
    have hslen := ofNat_trimmedLength_toNat isPadding s off hlen
    refine ⟨_, exec_getstr_of_inside hrun hlen hin, stringField_getElem s off len, ?_⟩
    rw [retire_slen, setString_slen, hslen]
    refine ⟨trimmedLength_le .., fun i hfrom hto => ?removed, fun i hlast => ?last, rfl⟩
    case removed => exact (isPadding_iff _).1 (trimmedLength_removed _ s off len i hfrom hto)
    case last =>
      have hkept := trimmedLength_last isPadding s off len i hlast
      rwa [← Bool.not_eq_true, isPadding_iff] at hkept
  case operand => exact exec_fault_of_firstCheck (i := .getstr off len) hrun (operandCheck_bad hlong)
  case bounds => exact exec_bounds_of_outside hrun (operandCheck_ok hlen) hout

end Sys2Proof.Proofs.GetstrFamily
end

section
/-! PROOFS of the family 43_csum.md: the words of each CSUM, the word sum in `SUM` and the flag `X`, its frame, and its two
faults (R171 to R173). -/

namespace Sys2Proof.Proofs.CsumFamily

open Sys2Proof Sys2Proof.Machine Sys2Proof.Safety Sys2Proof.Proofs.MemoryFamily Sys2Proof.Proofs.GetFamily
  Sys2Proof.Proofs.GetstrFamily

/-! ## The word sum as a natural -/

/-- The machine's 16-bit big-endian read is the spec's value (20_memory.md R62). -/
theorem read16_big_toNat (s : State) (a : Nat) : (read16 .big s a).toNat = big16 s a := join16_big_toNat _ _

/-- The machine's 16-bit little-endian read is the spec's value (20_memory.md R63). -/
theorem read16_little_toNat (s : State) (a : Nat) : (read16 .little s a).toNat = little16 s a :=
  join16_little_toNat _ _

/-- Reducing after every word, as the machine does, is reducing the exact sum of the words once (43_csum.md R171). -/
theorem wordSum_toNat (o : ByteOrder) (s : State) (off n : Nat) :
    (wordSum o s off n).toNat = ((List.range n).map fun i => (read16 o s (off + 2 * i)).toNat).sum % 65536 := by
  induction n with
  | zero => rfl
  | succ n ih =>
    rw [wordSum_succ, BitVec.toNat_add, ih, List.range_succ, List.map_append, List.sum_append]
    simp [Nat.mod_add_mod]

/-- `X` says whether the sum is the natural 0x1234 (10_state.md R34). -/
theorem flagX_iff_toNat (v : Half) : flagX v = true ↔ v.toNat = 0x1234 := by
  rw [flagX_iff, ← BitVec.toNat_inj]
  rfl

/-! ## What a CSUM does -/

/-- A CSUM of an even range inside `BUF` leaves the sum of the range's words, read as `word` says, in `SUM` and its flag
in `X`, and nothing else but the position changes (43_csum.md R170). -/
theorem csum_sums {i : Instr} {o : ByteOrder} {word : Nat → Nat} {off len : Nat} {s : State}
    (hword : ∀ a, (read16 o s a).toNat = word a)
    (hform : exec i s = runCommand (encode i) ((oddLenCheck len).or (boundsCheck off len))
      (fun t => setSum (wordSum o t off (len / 2)) (flagX (wordSum o t off (len / 2))) t) s)
    (hrun : s.status.f = false) (heven : len % 2 = 0) (hin : off + len ≤ 512) :
    ∃ t, exec i s = .next t ∧ t.sum.toNat = ((List.range (len / 2)).map fun j => word (off + 2 * j)).sum % 65536 ∧
      (t.status.x = true ↔ t.sum.toNat = 0x1234) ∧
      t = { s with sum := t.sum, status := { s.status with x := t.status.x }, k := s.k + 1 } := by
  rw [oddLenCheck_ok heven] at hform
  have hsum := wordSum_toNat o s off (len / 2)
  simp only [hword] at hsum
  exact ⟨_, hform.trans (runCommand_retires_of_inside hrun hin), hsum, flagX_iff_toNat _, rfl⟩

/-- Settles O41: inside `BUF` the sum of the big-endian words; an odd length fails the first check, so that it is `OddLen`
wherever the range ends. -/
theorem csumBigEndianSums : Obligations.CsumBigEndianSums := by
  intro off len s
  refine ⟨hasWord_range (opc := 0x40) (e := 0) rfl rfl rfl, csum_sums (read16_big_toNat s) rfl,
    fun hrun hodd => ?oddLen, fun hrun heven hout => ?bounds⟩
  case oddLen => exact exec_fault_of_firstCheck (i := .csumbe off len) hrun (oddLenCheck_bad hodd)
  case bounds => exact exec_bounds_of_outside hrun (oddLenCheck_ok heven) hout

/-- Settles O42: inside `BUF` the sum of the little-endian words; the checks are those of CSUM.BE. -/
theorem csumLittleEndianSums : Obligations.CsumLittleEndianSums := by
  intro off len s
  refine ⟨hasWord_range (opc := 0x40) (e := 1) rfl rfl rfl, csum_sums (read16_little_toNat s) rfl,
    fun hrun hodd => ?oddLen, fun hrun heven hout => ?bounds⟩
  case oddLen => exact exec_fault_of_firstCheck (i := .csumle off len) hrun (oddLenCheck_bad hodd)
  case bounds => exact exec_bounds_of_outside hrun (oddLenCheck_ok heven) hout

end Sys2Proof.Proofs.CsumFamily
end

section
/-! PROOFS of the family 44_punpk.md: the words of PUNPK, the registers and flags it writes, its two faults (R186), and
that its byte quantities are exact (R190). -/

namespace Sys2Proof.Proofs.PunpkFamily

open Sys2Proof Sys2Proof.Machine Sys2Proof.Safety Sys2Proof.Proofs.MemoryFamily Sys2Proof.Proofs.GetFamily
  Sys2Proof.Proofs.GetstrFamily

/-! ## A sector count in bytes -/

/-- The shift left by 9 loses no bit: the shift back gives the count (44_punpk.md R190). -/
theorem sectorBytes_shiftRight_toNat (c : Word32) : (sectorBytes c >>> 9).toNat = c.toNat := by
  rw [BitVec.toNat_ushiftRight, sectorBytes_toNat, Nat.shiftRight_eq_div_pow]
  exact Nat.mul_div_cancel c.toNat (by decide)

/-- The largest quantity is that of the largest 32-bit count, 2^41 - 512 (44_punpk.md R190). -/
theorem sectorBytes_toNat_le (c : Word32) : (sectorBytes c).toNat ≤ 0x1FFFFFFFE00 := by
  have hcount := c.isLt
  rw [sectorBytes_toNat]
  omega

/-- Bits 63:41 are 0, since the quantity is below 2^41 (44_punpk.md R190). -/
theorem sectorBytes_high_eq_zero (c : Word32) : (sectorBytes c).extractLsb' 41 23 = 0 := by
  have hle := sectorBytes_toNat_le c
  apply BitVec.eq_of_toNat_eq
  rw [BitVec.extractLsb'_toNat, Nat.shiftRight_eq_div_pow, Nat.div_eq_of_lt (by omega)]
  rfl

/-- Bits 8:0 are 0, since the quantity is a multiple of 512 (44_punpk.md R190). -/
theorem sectorBytes_low_eq_zero (c : Word32) : (sectorBytes c).extractLsb' 0 9 = 0 := by
  apply BitVec.eq_of_toNat_eq
  rw [BitVec.extractLsb'_toNat, Nat.shiftRight_zero, sectorBytes_toNat]
  exact Nat.mul_mod_left c.toNat 512

/-! ## What PUNPK does -/

/-- The effect of PUNPK: the slot's number and its four fields into the partition registers (44_punpk.md R186). -/
def unpackSlot (off num : Nat) (s : State) : State :=
  setPartition (BitVec.ofNat 4 num) (bufByte s off) (read24 s (off + 1)) (read32 .big s (off + 4))
    (read32 .big s (off + 8)) s

/-- PUNPK is one `runCommand` with the operand check, then the bound check, and `unpackSlot`. -/
theorem exec_punpk (off num : Nat) (s : State) :
    exec (.punpk off num) s = runCommand (encode (.punpk off num)) ((operandCheck num 11).or (boundsCheck off 12))
      (unpackSlot off num) s := rfl

/-- A PUNPK that passes both checks unpacks the slot and retires. -/
theorem exec_punpk_of_inside {s : State} {off num : Nat} (hrun : s.status.f = false) (hnum : num ≤ 11)
    (hin : off + 12 ≤ 512) : exec (.punpk off num) s = .next (retire (unpackSlot off num s)) := by
  rw [exec_punpk, operandCheck_ok hnum]
  exact runCommand_retires_of_inside hrun hin

/-- A PUNPK that leaves BAC running has unpacked the slot and retired. -/
theorem eq_unpackSlot_of_retires {s t : State} {off num : Nat} (hrun : s.status.f = false)
    (hexec : exec (.punpk off num) s = .next t) (hretired : t.status.f = false) :
    t = retire (unpackSlot off num s) := by
  rw [exec_punpk] at hexec
  obtain ⟨hhalted, -⟩ | ⟨d, -, -, rfl⟩ | ⟨-, -, heffect⟩ := runCommand_cases hexec
  · simp [hrun] at hhalted
  · simp at hretired
  · exact heffect

/-- `PSTART` holds the count at slot offset 4 times 512 (44_punpk.md R186). -/
theorem unpackSlot_pstart_toNat (off num : Nat) (s : State) :
    (unpackSlot off num s).pstart.toNat = big32 s (off + 4) * 512 := by
  rw [unpackSlot, setPartition_pstart, sectorBytes_toNat, read32_big_toNat]

/-- `PLEN` holds the count at slot offset 8 times 512 (44_punpk.md R186). -/
theorem unpackSlot_plen_toNat (off num : Nat) (s : State) :
    (unpackSlot off num s).plen.toNat = big32 s (off + 8) * 512 := by
  rw [unpackSlot, setPartition_plen, sectorBytes_toNat, read32_big_toNat]

/-- A legal slot number loses no bit in the 4 bits of `PNUM` (10_state.md R26). -/
theorem unpackSlot_pnum_toNat {num : Nat} (hnum : num ≤ 11) (off : Nat) (s : State) :
    (unpackSlot off num s).pnum.toNat = num := by
  rw [unpackSlot, setPartition_pnum, BitVec.toNat_ofNat]
  exact Nat.mod_eq_of_lt (by omega)

/-- Settles O47: inside both limits the registers hold the slot's fields and each flag is its rule on `PFLAGS` and
`PTYPE`; outside them the operand check comes before the bound check. -/
theorem punpkUnpacksTheSlot : Obligations.PunpkUnpacksTheSlot := by
  intro off num s
  refine ⟨hasWord_range (opc := 0x50) (e := 0) rfl rfl rfl, fun hrun hnum hin => ?inside,
    fun hrun hbig => ?operand, fun hrun hnum hout => ?bounds⟩
  case inside =>
    exact ⟨_, exec_punpk_of_inside hrun hnum hin, unpackSlot_pnum_toNat hnum off s, rfl, rfl,
      unpackSlot_pstart_toNat off num s, unpackSlot_plen_toNat off num s, rfl, rfl, rfl, flagPX_iff _, flagPV_iff _ _,
      flagPR_iff _ _, rfl, rfl⟩
  case operand => exact exec_fault_of_firstCheck (i := .punpk off num) hrun (operandCheck_bad hbig)
  case bounds =>
    exact exec_bounds_of_outside (i := .punpk off num) hrun (operandCheck_ok hnum) (Nat.add_lt_add_right hout 12)

/-- Settles O49: both registers are `sectorBytes` of a 32-bit big-endian read, and `sectorBytes` is exact. -/
theorem punpkByteQuantitiesAreExact : Obligations.PunpkByteQuantitiesAreExact := by
  intro off num s t hrun hexec hretired
  obtain rfl := eq_unpackSlot_of_retires hrun hexec hretired
  have hshift (a : Nat) : (sectorBytes (read32 .big s a) >>> 9).toNat = big32 s a :=
    (sectorBytes_shiftRight_toNat _).trans (read32_big_toNat s a)
  exact ⟨unpackSlot_pstart_toNat off num s, unpackSlot_plen_toNat off num s, sectorBytes_toNat_le _,
    sectorBytes_toNat_le _, sectorBytes_high_eq_zero _, sectorBytes_low_eq_zero _, sectorBytes_high_eq_zero _,
    sectorBytes_low_eq_zero _, hshift (off + 4), hshift (off + 8)⟩

end Sys2Proof.Proofs.PunpkFamily
end

section
/-! PROOFS of the family 60_exceptions.md: which fault a word raises, in the order `Illegal`, `Operand`, `OddLen`, `Bounds`
(R215, R216), and that a fault writes its own record alone (R212). -/

namespace Sys2Proof.Proofs.ExceptionsFamily

open Sys2Proof Sys2Proof.Machine Sys2Proof.Safety Sys2Proof.Proofs.MemoryFamily Sys2Proof.Proofs.EncodingFamily
  Sys2Proof.Proofs.GetFamily

/-! ## The fault of a word -/

/-- The fault a word raises on a running BAC, if any: `Illegal` if it is no command, else the first check of the command
that fails (60_exceptions.md R215). It depends on the word alone. -/
def wordFault (w : Command) : Option Cause :=
  match decode w with
  | .ok i => (firstCheck i).or (rangeCheck i)
  | .error _ => some .illegal

theorem wordFault_of_decode_ok {w : Command} {i : Instr} (h : decode w = .ok i) :
    wordFault w = (firstCheck i).or (rangeCheck i) := by
  rw [wordFault, h]

theorem wordFault_of_decode_error {w : Command} {e : Reject} (h : decode w = .error e) :
    wordFault w = some .illegal := by
  rw [wordFault, h]

/-- Everything a word issued to a running BAC can do: take its fault, or have none and leave BAC running. -/
theorem issueWord_cases {w : Command} {s t : State} (hrun : s.status.f = false) (h : issueWord w s = .next t) :
    (∃ c, wordFault w = some c ∧ t = takeFault c w s) ∨ (wordFault w = none ∧ t.status.f = false) := by
  cases hdec : decode w with
  | error e =>
    rw [raisesIllegal_of_decode_error hdec s hrun] at h
    cases h
    exact .inl ⟨.illegal, wordFault_of_decode_error hdec, rfl⟩
  | ok i =>
    obtain ⟨e, hform, hkeeps⟩ := exec_form_keeps_f i
    obtain ⟨-, hword⟩ := decode_eq_ok.1 hdec
    rw [issueWord_of_decode_ok hdec, hform, ← hword] at h
    rw [wordFault_of_decode_ok hdec]
    obtain ⟨hhalted, -⟩ | ⟨c, -, hcheck, htaken⟩ | ⟨-, hpass, rfl⟩ := runCommand_cases h
    · simp [hrun] at hhalted
    · exact .inl ⟨c, hcheck, htaken⟩
    · exact .inr ⟨hpass, by simp [hkeeps, hrun]⟩

/-! ## The fault table -/

/-- The code of the fault that a check ends in, 0 if it passes (60_exceptions.md R211). -/
def checkCode : Option Cause → Nat
  | none => 0
  | some c => (causeCode c).toNat

/-- Every fault has a code other than 0 (60_exceptions.md R211). -/
theorem causeCode_toNat_ne_zero (c : Cause) : (causeCode c).toNat ≠ 0 := by
  cases c <;> decide

theorem checkCode_boundsCheck (off n : Nat) : checkCode (boundsCheck off n) = if 512 < off + n then 4 else 0 := by
  split
  · rw [boundsCheck_bad ‹_›]
    rfl
  · rw [boundsCheck_ok (by omega)]
    rfl

/-- A failing operand check hides whatever check comes after it (60_exceptions.md R215). -/
theorem checkCode_operandCheck_or (v m : Nat) (c : Option Cause) :
    checkCode ((operandCheck v m).or c) = if m < v then 2 else checkCode c := by
  split
  · rw [operandCheck_bad ‹_›]
    rfl
  · rw [operandCheck_ok (by omega), Option.none_or]

/-- A failing length check hides whatever check comes after it (60_exceptions.md R215). -/
theorem checkCode_oddLenCheck_or (len : Nat) (c : Option Cause) :
    checkCode ((oddLenCheck len).or c) = if len % 2 = 1 then 3 else checkCode c := by
  split
  · rw [oddLenCheck_bad ‹_›]
    rfl
  · rw [oddLenCheck_ok (by omega), Option.none_or]

/-- The command's checks, in their order, are the fault table of 60_exceptions.md R216. -/
theorem checkCode_eq_faultCodeOf (i : Instr) : checkCode ((firstCheck i).or (rangeCheck i)) = faultCodeOf i := by
  cases i with
  | getu8 off | setu8 off | getu16be off | getu16le off | setu16be off | setu16le off | getu32be off | getu32le off
  | setu32be off | setu32le off =>
    exact (checkCode_boundsCheck off _).trans (if_congr (by dsimp only [touched]; omega) rfl rfl)
  | getstr off len =>
    exact (checkCode_operandCheck_or len 16 _).trans (by rw [rangeCheck, checkCode_boundsCheck]; rfl)
  | csumbe off len | csumle off len =>
    exact (checkCode_oddLenCheck_or len _).trans (by rw [rangeCheck, checkCode_boundsCheck]; rfl)
  | punpk off num =>
    have hbounds : checkCode (boundsCheck off 12) = if 500 < off then 4 else 0 :=
      (checkCode_boundsCheck off 12).trans (if_congr (by omega) rfl rfl)
    exact (checkCode_operandCheck_or num 11 _).trans (if_congr Iff.rfl rfl hbounds)

/-- The fault of a command's word has the command's code in the fault table. -/
theorem checkCode_of_wordFault {w : Command} {i : Instr} {c : Option Cause} (hdec : decode w = .ok i)
    (hfault : wordFault w = c) : checkCode c = faultCodeOf i := by
  rw [← hfault, wordFault_of_decode_ok hdec, checkCode_eq_faultCodeOf]

/-- An undecodable word raises no fault but `Illegal`. -/
theorem eq_illegal_of_wordFault {w : Command} {e : Reject} {c : Cause} (hdec : decode w = .error e)
    (hfault : wordFault w = some c) : c = .illegal :=
  (Option.some.inj ((wordFault_of_decode_error hdec).symm.trans hfault)).symm

/-- Settles O20: the word takes its fault, whose code is the table's, or it has none and the table has 0. -/
theorem faultConditions : Obligations.FaultConditions := by
  intro w s t hrun hissue
  obtain ⟨c, hfault, rfl⟩ | ⟨hnone, hf⟩ := issueWord_cases hrun hissue
  · refine ⟨fun e hdec => ?undecodable, fun i hdec => ?command⟩
    case undecodable =>
      obtain rfl := eq_illegal_of_wordFault hdec hfault
      exact ⟨rfl, rfl⟩
    case command =>
      have hcode : (causeCode c).toNat = faultCodeOf i := checkCode_of_wordFault hdec hfault
      exact ⟨⟨fun _ => hcode ▸ causeCode_toNat_ne_zero c, fun _ => rfl⟩, fun _ => hcode⟩
  · refine ⟨fun e hdec => ?undecodable, fun i hdec => ?command⟩
    case undecodable => simp [wordFault_of_decode_error hdec] at hnone
    case command =>
      have hzero : 0 = faultCodeOf i := checkCode_of_wordFault hdec hnone
      simp [hf, ← hzero]

/-- Settles O21: a word that leaves BAC halted has taken its fault, and `takeFault` is `faultRecorded` with its code. -/
theorem faultWritesOnlyItsRecord : Obligations.FaultWritesOnlyItsRecord := by
  intro w s t hrun hissue hhalt
  obtain ⟨c, hfault, rfl⟩ | ⟨-, hf⟩ := issueWord_cases hrun hissue
  · exact ⟨rfl, fun e hdec => congrArg causeCode (eq_illegal_of_wordFault hdec hfault),
      fun i hdec => checkCode_of_wordFault hdec hfault⟩
  · simp [hf] at hhalt

end Sys2Proof.Proofs.ExceptionsFamily
end

section
/-! PROOFS, the layer under the families that follow: a command that retires computes one update from the bytes it
touches and applies it (30_encoding.md R90), and everything that one issued word and one step can do. -/

namespace Sys2Proof.Proofs.Updates

open Sys2Proof Sys2Proof.Machine Sys2Proof.Safety Sys2Proof.Proofs.MemoryFamily Sys2Proof.Proofs.EncodingFamily
  Sys2Proof.Proofs.GetFamily Sys2Proof.Proofs.ExceptionsFamily

/-! ## The update of a command -/

/-- What one command writes, with its values: one form per write set of 10_state.md R42. -/
inductive Update where
  | result (v : Result)
  | string (sb : Vector Byte 16) (slen : BitVec 5)
  | checksum (v : Half)
  | partition (num : BitVec 4) (flags : Byte) (type : Tag) (start len : Word32)
  | store (off : Nat) (bytes : List Byte)

def Update.apply : Update → State → State
  | .result v, s => setRes v s
  | .string sb slen, s => setString sb slen s
  | .checksum v, s => setSum v (flagX v) s
  | .partition num flags type start len, s => setPartition num flags type start len s
  | .store off bytes, s => memWrite s off bytes

/-- The update that a command computes from `BUF`, if it retires. -/
def updateOf : Instr → State → Update
  | .getu8 off, s => .result (zeroExtend (bufByte s off))
  | .getu16be off, s => .result (zeroExtend (read16 .big s off))
  | .getu16le off, s => .result (zeroExtend (read16 .little s off))
  | .getu32be off, s => .result (read32 .big s off)
  | .getu32le off, s => .result (read32 .little s off)
  | .setu8 off val, _ => .store off [val]
  | .setu16be off val, _ => .store off (bytes16 .big val)
  | .setu16le off val, _ => .store off (bytes16 .little val)
  | .setu32be off val, _ => .store off (bytes32 .big val)
  | .setu32le off val, _ => .store off (bytes32 .little val)
  | .getstr off len, s => .string (stringField s off len) (BitVec.ofNat 5 (trimmedLength isPadding s off len))
  | .csumbe off len, s => .checksum (wordSum .big s off (len / 2))
  | .csumle off len, s => .checksum (wordSum .little s off (len / 2))
  | .punpk off num, s => .partition (BitVec.ofNat 4 num) (bufByte s off) (read24 s (off + 1)) (read32 .big s (off + 4))
      (read32 .big s (off + 8))

/-- The state in which a command retires. -/
def retired (i : Instr) (s : State) : State := retire ((updateOf i s).apply s)

/-- Every command is one `runCommand`: its checks, then its update. -/
theorem exec_eq_runCommand (i : Instr) (s : State) :
    exec i s = runCommand (encode i) ((firstCheck i).or (rangeCheck i)) (fun t => (updateOf i t).apply t) s := by
  cases i <;> rfl

section
variable (u : Update) (s : State)

@[simp] theorem Update.apply_f : (u.apply s).status.f = s.status.f := by cases u <;> simp [Update.apply]
@[simp] theorem Update.apply_k : (u.apply s).k = s.k := by cases u <;> simp [Update.apply]
@[simp] theorem Update.apply_moves : (u.apply s).moves = s.moves := by cases u <;> simp [Update.apply]

end

@[simp] theorem retired_f (i : Instr) (s : State) : (retired i s).status.f = s.status.f := by simp [retired]
@[simp] theorem retired_k (i : Instr) (s : State) : (retired i s).k = s.k + 1 := by simp [retired]
@[simp] theorem retired_moves (i : Instr) (s : State) : (retired i s).moves = s.moves := by simp [retired]

/-- The update depends on the bytes the command touches alone: no command reads a register, a flag or another byte
(20_memory.md R67). -/
theorem updateOf_congr {i : Instr} {s t : State}
    (h : ∀ a, (touched i).1 ≤ a → a < (touched i).1 + (touched i).2 → bufByte s a = bufByte t a) :
    updateOf i s = updateOf i t := by
  cases i with
  | getu8 off => rw [updateOf, updateOf, h off le_rfl (Nat.lt_succ_self off)]
  | getu16be off | getu16le off =>
    dsimp only [touched] at h
    simp only [updateOf, read16]
    rw [h off (by omega) (by omega), h (off + 1) (by omega) (by omega)]
  | getu32be off | getu32le off =>
    dsimp only [touched] at h
    simp only [updateOf, read32]
    rw [h off (by omega) (by omega), h (off + 1) (by omega) (by omega), h (off + 2) (by omega) (by omega),
      h (off + 3) (by omega) (by omega)]
  | setu8 | setu16be | setu16le | setu32be | setu32le => rfl
  | getstr off len =>
    rw [updateOf, updateOf, stringField_congr s t off len h, trimmedLength_congr isPadding s t off len h]
  | csumbe off len | csumle off len =>
    dsimp only [touched] at h
    rw [updateOf, updateOf, wordSum_congr _ s t off (len / 2) fun a hlo hhi => h a hlo (by omega)]
  | punpk off num =>
    dsimp only [touched] at h
    have hbyte (j : Nat) (hj : j < 12) : bufByte s (off + j) = bufByte t (off + j) := h _ (by omega) (by omega)
    simp only [updateOf, read24, read32, Nat.add_assoc, Nat.reduceAdd]
    rw [hbyte 1 (by decide), hbyte 2 (by decide), hbyte 3 (by decide), hbyte 4 (by decide), hbyte 5 (by decide),
      hbyte 6 (by decide), hbyte 7 (by decide), hbyte 8 (by decide), hbyte 9 (by decide), hbyte 10 (by decide),
      hbyte 11 (by decide), h off le_rfl (by omega)]

/-- The bytes that `MemWrite` leaves in its range are its operand's, whatever the state held. -/
theorem bufByte_memWrite_congr (s t : State) {off a : Nat} {bytes : List Byte} (hlo : off ≤ a)
    (hhi : a < off + bytes.length) : bufByte (memWrite s off bytes) a = bufByte (memWrite t off bytes) a := by
  obtain ⟨j, rfl⟩ := Nat.exists_eq_add_of_le hlo
  rw [bufByte_memWrite_inside bytes s off j (by omega), bufByte_memWrite_inside bytes t off j (by omega)]

/-- The low byte of a byte zero-extended to `RES` is that byte (40_get.md R121). -/
theorem zeroExtend_extractLsb' (b : Byte) : (zeroExtend b).extractLsb' 0 8 = b := by
  apply BitVec.eq_of_toNat_eq
  rw [BitVec.extractLsb'_toNat, zeroExtend_toNat _ (by decide), Nat.shiftRight_zero]
  exact Nat.mod_eq_of_lt b.isLt

/-! ## One command, one word -/

/-- A command whose checks pass retires. -/
theorem exec_of_checks_pass {i : Instr} {s : State} (hrun : s.status.f = false)
    (hpass : (firstCheck i).or (rangeCheck i) = none) : exec i s = .next (retired i s) := by
  rw [exec_eq_runCommand, hpass, runCommand_retires _ _ _ hrun]
  rfl

/-- A command retires if its first check passes and its range ends inside `BUF`. -/
theorem exec_of_inside {i : Instr} {s : State} (hrun : s.status.f = false) (hfirst : firstCheck i = none)
    (hin : (touched i).1 + (touched i).2 ≤ 512) : exec i s = .next (retired i s) :=
  exec_of_checks_pass hrun (by rw [hfirst, Option.none_or, rangeCheck, boundsCheck_ok hin])

/-- The range of a command whose checks pass ends inside `BUF` (20_memory.md R68). -/
theorem touched_le_of_checks_pass {i : Instr} (hpass : (firstCheck i).or (rangeCheck i) = none) :
    (touched i).1 + (touched i).2 ≤ 512 :=
  touched_le_of_retires (s := State.reset) rfl (exec_of_checks_pass rfl hpass) (retired_f i State.reset)

/-- A command that leaves a running BAC running has passed its checks and retired. -/
theorem eq_retired_of_running {i : Instr} {s t : State} (hrun : s.status.f = false) (hexec : exec i s = .next t)
    (hretired : t.status.f = false) : (firstCheck i).or (rangeCheck i) = none ∧ t = retired i s := by
  rw [exec_eq_runCommand] at hexec
  obtain ⟨hhalted, -⟩ | ⟨d, -, -, rfl⟩ | ⟨-, hpass, heffect⟩ := runCommand_cases hexec
  · simp [hrun] at hhalted
  · simp at hretired
  · exact ⟨hpass, heffect⟩

/-- A halted BAC accepts no word, legal or not (10_state.md R48). -/
theorem issueWord_halted (w : Command) {s : State} (hhalt : s.status.f = true) : issueWord w s = .next s := by
  cases hdec : decode w with
  | ok i => rw [issueWord_of_decode_ok hdec, exec_eq_runCommand, runCommand_halted _ _ _ _ hhalt]
  | error e =>
    simp only [issueWord, hdec]
    exact runCommand_halted _ _ _ _ hhalt

/-- A word with a fault takes it on every running BAC. -/
theorem issueWord_fault {w : Command} {c : Cause} {s : State} (hrun : s.status.f = false)
    (hfault : wordFault w = some c) : issueWord w s = .next (takeFault c w s) := by
  cases hdec : decode w with
  | ok i =>
    obtain ⟨-, hword⟩ := decode_eq_ok.1 hdec
    rw [wordFault_of_decode_ok hdec] at hfault
    rw [issueWord_of_decode_ok hdec, exec_eq_runCommand, hfault, ← hword, runCommand_fault _ _ _ _ hrun]
  | error e =>
    obtain rfl := eq_illegal_of_wordFault hdec hfault
    exact raisesIllegal_of_decode_error hdec s hrun

/-- A word with no fault is a command, which retires on every running BAC. -/
theorem issueWord_retires {w : Command} (hfault : wordFault w = none) :
    ∃ i, decode w = .ok i ∧ (firstCheck i).or (rangeCheck i) = none ∧
      ∀ {s : State}, s.status.f = false → issueWord w s = .next (retired i s) := by
  cases hdec : decode w with
  | ok i =>
    rw [wordFault_of_decode_ok hdec] at hfault
    exact ⟨i, rfl, hfault, fun hrun => (issueWord_of_decode_ok hdec _).trans (exec_of_checks_pass hrun hfault)⟩
  | error e => simp [wordFault_of_decode_error hdec] at hfault

/-- Everything an issued word can do: it is not accepted, or it takes its fault, or it is a command that retires. -/
theorem issueWord_inv {w : Command} {s t : State} (h : issueWord w s = .next t) :
    (s.status.f = true ∧ t = s) ∨ (∃ c, s.status.f = false ∧ wordFault w = some c ∧ t = takeFault c w s) ∨
      ∃ i, s.status.f = false ∧ decode w = .ok i ∧ (firstCheck i).or (rangeCheck i) = none ∧ t = retired i s := by
  cases hf : s.status.f with
  | true =>
    rw [issueWord_halted w hf] at h
    cases h
    exact .inl ⟨rfl, rfl⟩
  | false =>
    cases hfault : wordFault w with
    | some c =>
      rw [issueWord_fault hf hfault] at h
      cases h
      exact .inr (.inl ⟨c, rfl, rfl, rfl⟩)
    | none =>
      obtain ⟨i, hdec, hpass, hretires⟩ := issueWord_retires hfault
      rw [hretires hf] at h
      cases h
      exact .inr (.inr ⟨i, rfl, hdec, hpass, rfl⟩)

/-! ## One step -/

theorem step_of_moves_nil {s : State} (h : s.moves = []) : step s = .next s := by
  rw [step, h]

theorem step_of_moves_cons {s : State} {m : HostMove} {rest : List HostMove} (h : s.moves = m :: rest) :
    step s = makeMove m { s with moves := rest } := by
  rw [step, h]

/-- Everything a step can do: it is idle, or the oldest pending move leaves the queue and is made. -/
theorem step_inv {s t : State} (h : step s = .next t) :
    (s.moves = [] ∧ t = s) ∨ ∃ m rest, s.moves = m :: rest ∧ makeMove m { s with moves := rest } = .next t := by
  cases hmoves : s.moves with
  | nil =>
    rw [step_of_moves_nil hmoves] at h
    cases h
    exact .inl ⟨rfl, rfl⟩
  | cons m rest =>
    rw [step_of_moves_cons hmoves] at h
    exact .inr ⟨m, rest, rfl, h⟩

end Sys2Proof.Proofs.Updates
end

section
/-! PROOFS of no hidden state (10_state.md section 7): two machines that the host can't tell apart differ in the list
that holds `BUF` at most, and every operation on the state keeps them alike. -/

namespace Sys2Proof.Proofs.Observation

open Sys2Proof Sys2Proof.Machine Sys2Proof.Safety Sys2Proof.Proofs.MemoryFamily Sys2Proof.Proofs.ExceptionsFamily
  Sys2Proof.Proofs.Updates

/-- The two states differ in the list that holds `BUF` at most, and not in a byte of it. -/
structure Alike (s t : State) : Prop where
  bytes : SameBuffer s t
  rest : t = { s with buf := t.buf }

/-- What the host can observe, with the host's own part of the state, is everything but the list (log 2). -/
theorem alike_iff {s t : State} :
    Alike s t ↔ SameView s t ∧ s.moves = t.moves ∧ s.k = t.k ∧ s.replies = t.replies := by
  constructor
  · rintro ⟨hbytes, hrest⟩
    rw [hrest] at hbytes ⊢
    exact ⟨⟨hbytes, ⟨rfl, rfl, rfl, rfl, rfl, rfl, rfl, rfl, rfl, rfl⟩, rfl, rfl⟩, rfl, rfl, rfl⟩
  · rintro ⟨⟨hbytes, hresults, hstatus, hfcmd⟩, hmoves, hk, hreplies⟩
    refine ⟨hbytes, ?_⟩
    cases s
    cases t
    simp_all [SameResults]

namespace Alike

variable {s t : State}

theorem retire (h : Alike s t) : Alike (retire s) (retire t) := ⟨h.bytes, congrArg Machine.retire h.rest⟩

theorem takeFault (h : Alike s t) (c : Cause) (w : Command) : Alike (takeFault c w s) (takeFault c w t) :=
  ⟨h.bytes, congrArg (Machine.takeFault c w) h.rest⟩

theorem reply (h : Alike s t) (v : BitVec 64) : Alike (reply v s) (reply v t) :=
  ⟨h.bytes, congrArg (Machine.reply v) h.rest⟩

theorem hostReset (h : Alike s t) : Alike (hostReset s) (hostReset t) :=
  ⟨h.bytes, congrArg Machine.hostReset h.rest⟩

theorem setMoves (h : Alike s t) (moves : List HostMove) : Alike { s with moves := moves } { t with moves := moves } :=
  ⟨h.bytes, congrArg (fun x : State => { x with moves := moves }) h.rest⟩

theorem memWrite (h : Alike s t) (a : Nat) (bs : List Byte) : Alike (memWrite s a bs) (memWrite t a bs) where
  bytes n hn := by
    by_cases hin : a ≤ n ∧ n < a + bs.length
    · exact bufByte_memWrite_congr s t hin.1 hin.2
    · rw [bufByte_memWrite_outside bs s a n (by omega), bufByte_memWrite_outside bs t a n (by omega)]
      exact h.bytes n hn
  rest := by
    rw [memWrite_eq bs s, memWrite_eq bs t]
    exact congrArg (fun x : State => { x with buf := (Machine.memWrite t a bs).buf }) h.rest

theorem apply (h : Alike s t) (u : Update) : Alike (u.apply s) (u.apply t) := by
  cases u with
  | store off bytes => exact h.memWrite off bytes
  | result | string | checksum | partition => exact ⟨h.bytes, congrArg (Update.apply _) h.rest⟩

/-- A command whose checks pass touches bytes of `BUF` alone, so it computes the same update in both. -/
theorem retired (h : Alike s t) {i : Instr} (hpass : (firstCheck i).or (rangeCheck i) = none) :
    Alike (retired i s) (retired i t) := by
  have hin := touched_le_of_checks_pass hpass
  have hupdate : updateOf i s = updateOf i t := updateOf_congr fun a _ ha => h.bytes a (by omega)
  rw [Updates.retired, Updates.retired, hupdate]
  exact (h.apply _).retire

theorem readRegister_eq (h : Alike s t) (n : BitVec 6) : readRegister s n = readRegister t n := by
  rw [h.rest]
  rfl

theorem issueWord (h : Alike s t) {w : Command} {s' t' : State} (hs : issueWord w s = .next s')
    (ht : issueWord w t = .next t') : Alike s' t' := by
  have hf : t.status.f = s.status.f := by rw [h.rest]
  cases hrun : s.status.f with
  | true =>
    rw [issueWord_halted w hrun] at hs
    rw [issueWord_halted w (hf.trans hrun)] at ht
    cases hs
    cases ht
    exact h
  | false =>
    cases hfault : wordFault w with
    | some c =>
      rw [issueWord_fault hrun hfault] at hs
      rw [issueWord_fault (hf.trans hrun) hfault] at ht
      cases hs
      cases ht
      exact h.takeFault c w
    | none =>
      obtain ⟨i, -, hpass, hretires⟩ := issueWord_retires hfault
      rw [hretires hrun] at hs
      rw [hretires (hf.trans hrun)] at ht
      cases hs
      cases ht
      exact h.retired hpass

theorem makeMove (h : Alike s t) {m : HostMove} {s' t' : State} (hs : makeMove m s = .next s')
    (ht : makeMove m t = .next t') : Alike s' t' := by
  cases m with
  | issue w => exact h.issueWord hs ht
  | readReg n =>
    cases hs
    cases ht
    rw [hostReadReg, hostReadReg, h.readRegister_eq]
    exact h.reply _
  | readBuf a =>
    cases hs
    cases ht
    rw [hostReadBuf, hostReadBuf, h.bytes a.toNat a.isLt]
    exact h.reply _
  | writeBuf a b =>
    cases hs
    cases ht
    exact h.memWrite a.toNat [b]
  | reset =>
    cases hs
    cases ht
    exact h.hostReset

theorem step (h : Alike s t) {s' t' : State} (hs : step s = .next s') (ht : step t = .next t') : Alike s' t' := by
  have hmoves : t.moves = s.moves := by rw [h.rest]
  obtain ⟨hnil, rfl⟩ | ⟨m, rest, hcons, hmake⟩ := step_inv hs
  · rw [step_of_moves_nil (hmoves.trans hnil)] at ht
    cases ht
    exact h
  · rw [step_of_moves_cons (hmoves.trans hcons)] at ht
    exact (h.setMoves rest).makeMove hmake ht

end Alike

/-- Settles O56: the relation of the statement is `Alike`, which every operation on the state keeps. -/
theorem noHiddenState : Obligations.NoHiddenState := by
  intro s t s' t' hview hmoves hk hreplies hs ht
  have hbefore : Alike s t := alike_iff.2 ⟨hview, hmoves, hk, hreplies⟩
  exact alike_iff.1 (hbefore.step hs ht)

end Sys2Proof.Proofs.Observation
end

section
/-! PROOFS of the invariant: every operation on the state keeps the relations that the spec states between the
registers (10_state.md sections 3 and 4). -/

namespace Sys2Proof.Proofs.Invariant

open Sys2Proof Sys2Proof.Machine Sys2Proof.Safety Sys2Proof.Proofs.MemoryFamily Sys2Proof.Proofs.GetstrFamily
  Sys2Proof.Proofs.Updates

/-! ## What the checks guarantee of an update -/

/-- The string is trimmed inside a field of up to 16 bytes, the slot number is legal, and the bytes stored lie inside
`BUF`. -/
def Legal : Update → Prop
  | .string sb slen => slen.toNat ≤ 16 ∧ ∀ i : Fin 16, slen.toNat = i.val + 1 → isPadding sb[i] = false
  | .partition num .. => num.toNat ≤ 11
  | .store off bytes => off + bytes.length ≤ 512
  | .result _ | .checksum _ => True

/-- The string of a GETSTR of up to 16 bytes ends in no padding byte (42_getstr.md R166). -/
theorem legal_string (s : State) (off : Nat) {len : Nat} (hlen : len ≤ 16) :
    Legal (.string (stringField s off len) (BitVec.ofNat 5 (trimmedLength isPadding s off len))) := by
  have hle := trimmedLength_le isPadding s off len
  rw [Legal, ofNat_trimmedLength_toNat isPadding s off hlen]
  refine ⟨by omega, fun i hlast => ?_⟩
  rw [stringField_getElem, if_pos (by omega)]
  exact trimmedLength_last isPadding s off len i hlast

theorem le_of_operandCheck_eq_none {v m : Nat} (h : operandCheck v m = none) : v ≤ m := by
  by_contra hbig
  simp [operandCheck_bad (by omega : m < v)] at h

theorem legal_updateOf {i : Instr} (hpass : (firstCheck i).or (rangeCheck i) = none) (s : State) :
    Legal (updateOf i s) := by
  have hin := touched_le_of_checks_pass hpass
  obtain ⟨hfirst, -⟩ := Option.or_eq_none_iff.1 hpass
  cases i with
  | getu8 | getu16be | getu16le | getu32be | getu32le | csumbe | csumle => trivial
  | setu8 | setu16be | setu16le | setu32be | setu32le => exact hin
  | getstr off len => exact legal_string s off (le_of_operandCheck_eq_none hfirst)
  | punpk off num =>
    have hnum : num ≤ 11 := le_of_operandCheck_eq_none hfirst
    simp only [updateOf, Legal, BitVec.toNat_ofNat]
    omega

/-! ## The operations keep the invariant -/

/-- A sector count in bytes is a multiple of 512 below 2^41 (10_state.md R30, R31). -/
theorem sectorBytes_range (c : Word32) : (sectorBytes c).toNat % 512 = 0 ∧ (sectorBytes c).toNat < 2 ^ 41 := by
  have hlt := c.isLt
  rw [sectorBytes_toNat]
  omega

/-- The four codes are 1 to 4 (10_state.md R33). -/
theorem causeCode_range (c : Cause) : 1 ≤ (causeCode c).toNat ∧ (causeCode c).toNat ≤ 4 := by
  cases c <;> decide

/-- Settles O58: every register is 0, and 0 meets each relation. -/
theorem resetHasTheInvariant : Obligations.ResetHasTheInvariant := by
  unfold Obligations.ResetHasTheInvariant
  constructor <;> decide

section
variable {s : State}

theorem inv_setMoves (h : Inv s) (moves : List HostMove) : Inv { s with moves := moves } := { h with }

theorem inv_retire (h : Inv s) : Inv (retire s) := { h with }

theorem inv_reply (h : Inv s) (v : BitVec 64) : Inv (reply v s) := { h with }

theorem inv_hostReset (h : Inv s) : Inv (hostReset s) := { resetHasTheInvariant with bufWf := h.bufWf }

theorem inv_takeFault (h : Inv s) (c : Cause) (w : Command) : Inv (takeFault c w s) :=
  { h with
    noFaultRecord := fun hrun => by simp at hrun
    faultCode := fun _ => causeCode_range c }

theorem inv_memWrite (h : Inv s) {off : Nat} {bytes : List Byte} (hin : off + bytes.length ≤ 512) :
    Inv (memWrite s off bytes) := by
  have hwf := memWrite_wf bytes s off h.bufWf hin
  rw [memWrite_eq]
  exact { h with bufWf := hwf }

theorem inv_apply (h : Inv s) {u : Update} (hlegal : Legal u) : Inv (u.apply s) := by
  cases u with
  | result => exact { h with }
  | string => exact { h with slenBound := hlegal.1, trimmed := hlegal.2 }
  | checksum => exact { h with markerX := rfl }
  | partition num flags type start len =>
    exact { h with
      pnumBound := hlegal
      pstartRange := sectorBytes_range start
      plenRange := sectorBytes_range len
      pownerZero := rfl
      flagBits := ⟨rfl, rfl⟩
      markerPX := rfl
      markerPV := rfl
      markerPR := rfl }
  | store => exact inv_memWrite h hlegal

theorem inv_issueWord (h : Inv s) {w : Command} {t : State} (hissue : issueWord w s = .next t) : Inv t := by
  obtain ⟨-, rfl⟩ | ⟨c, -, -, rfl⟩ | ⟨i, -, -, hpass, rfl⟩ := issueWord_inv hissue
  · exact h
  · exact inv_takeFault h c w
  · exact inv_retire (inv_apply h (legal_updateOf hpass s))

theorem inv_makeMove (h : Inv s) {m : HostMove} {t : State} (hmake : makeMove m s = .next t) : Inv t := by
  cases m with
  | issue w => exact inv_issueWord h hmake
  | readReg n =>
    cases hmake
    exact inv_reply h _
  | readBuf a =>
    cases hmake
    exact inv_reply h _
  | writeBuf a b =>
    cases hmake
    exact inv_memWrite h a.isLt
  | reset =>
    cases hmake
    exact inv_hostReset h

end

/-- Settles O57: a step is idle or makes one host move, and every move keeps the invariant. -/
theorem everyStepKeepsTheInvariant : Obligations.EveryStepKeepsTheInvariant := by
  intro s t hinv hstep
  obtain ⟨-, rfl⟩ | ⟨m, rest, -, hmake⟩ := step_inv hstep
  · exact hinv
  · exact inv_makeMove (inv_setMoves hinv rest) hmake

end Sys2Proof.Proofs.Invariant
end

section
/-! PROOFS of the step and the ports: each host move is made in one step (70_reset_and_hazards.md R251), a halted BAC
keeps its registers until reset (10_state.md R48, 60_exceptions.md R213), and what the ports and reset do. -/

namespace Sys2Proof.Proofs.StepFamily

open Sys2Proof Sys2Proof.Machine Sys2Proof.Safety Sys2Proof.Proofs.EncodingFamily Sys2Proof.Proofs.GetFamily
  Sys2Proof.Proofs.ExceptionsFamily Sys2Proof.Proofs.Updates

/-! ## The moves of a step -/

/-- Settles O8: the move leaves the queue, and the command port runs the decoded command. -/
theorem stepRunsTheDecodedCommand : Obligations.StepRunsTheDecodedCommand := by
  intro s w rest i hmoves hdec
  rw [step_of_moves_cons hmoves]
  exact issueWord_of_decode_ok hdec _

/-- Settles O9: the move leaves the queue, and a rejected word raises `Illegal`. -/
theorem stepTakesIllegal : Obligations.StepTakesIllegal := by
  intro s w rest e hmoves hdec hrun
  rw [step_of_moves_cons hmoves]
  exact raisesIllegal_of_decode_error hdec { s with moves := rest } hrun

/-- Settles O10: the move that leaves the queue is the one made. -/
theorem stepMakesHostMoves : Obligations.StepMakesHostMoves := fun _ _ =>
  ⟨step_of_moves_nil, fun _ => step_of_moves_cons, fun _ => step_of_moves_cons, fun _ _ => step_of_moves_cons,
    step_of_moves_cons⟩

theorem issueWord_next (w : Command) (s : State) : ∃ t, issueWord w s = .next t := by
  cases hdec : decode w with
  | ok i =>
    rw [issueWord_of_decode_ok hdec, exec_eq_runCommand]
    exact runCommand_next _ _ _ s
  | error e =>
    simp only [issueWord, hdec]
    exact runCommand_next _ _ _ s

/-- Settles O13: a command always answers a next state, and every other move is a next state by its definition. -/
theorem everyStepCompletes : Obligations.EveryStepCompletes := by
  intro s
  cases hmoves : s.moves with
  | nil => exact ⟨s, step_of_moves_nil hmoves⟩
  | cons m rest =>
    rw [step_of_moves_cons hmoves]
    cases m with
    | issue w => exact issueWord_next w _
    | readReg | readBuf | writeBuf | reset => exact ⟨_, rfl⟩

/-! ## While halted -/

/-- Settles O11: `runCommand` tests `F` first, for a command and for an illegal word. -/
theorem haltedAcceptsNoCommand : Obligations.HaltedAcceptsNoCommand := by
  intro s hhalt
  refine ⟨fun i => ?_, fun w => issueWord_halted w hhalt⟩
  rw [exec_eq_runCommand, runCommand_halted _ _ _ _ hhalt]

/-- While halted, a step that is no reset changes `BUF`, the queue of moves and the replies at most. -/
theorem halted_step_frame {s t : State} (hstep : step s = .next t) (hhalt : s.status.f = true)
    (hreset : ∀ rest, s.moves ≠ .reset :: rest) :
    t = { s with buf := t.buf, moves := t.moves, replies := t.replies } := by
  obtain ⟨-, rfl⟩ | ⟨m, rest, hmoves, hmake⟩ := step_inv hstep
  · rfl
  · cases m with
    | issue w =>
      cases (issueWord_halted (s := { s with moves := rest }) w hhalt).symm.trans hmake
      rfl
    | readReg | readBuf | writeBuf =>
      cases hmake
      rfl
    | reset => exact absurd hmoves (hreset rest)

/-- Settles O12: the frame of a step while halted leaves all these parts out. -/
theorem haltLastsUntilReset : Obligations.HaltLastsUntilReset := by
  intro s t hstep hhalt hreset
  rw [halted_step_frame hstep hhalt hreset]
  exact ⟨rfl, rfl, ⟨rfl, rfl, rfl, rfl, rfl, rfl, rfl, rfl, rfl, rfl⟩, rfl⟩

/-! ## The position -/

/-- An accepted word advances the position exactly if it retires (10_state.md R29). -/
theorem issueWord_k {w : Command} {s t : State} (hrun : s.status.f = false) (hissue : issueWord w s = .next t) :
    t.k = if t.status.f then s.k else s.k + 1 := by
  obtain ⟨hhalt, -⟩ | ⟨c, -, -, rfl⟩ | ⟨i, -, -, -, rfl⟩ := issueWord_inv hissue
  · simp [hrun] at hhalt
  · simp
  · simp [hrun]

/-- No other move advances the position, and none does while halted. -/
theorem makeMove_k {m : HostMove} {s t : State} (hquiet : (∀ w, m ≠ .issue w) ∨ s.status.f = true)
    (hmake : makeMove m s = .next t) : t.k = s.k := by
  cases m with
  | issue w =>
    obtain hissue | hhalt := hquiet
    · exact absurd rfl (hissue w)
    · cases (issueWord_halted w hhalt).symm.trans hmake
      rfl
  | readReg | readBuf | writeBuf | reset =>
    cases hmake
    rfl

/-- Settles O14: by the move that the step makes. -/
theorem positionCountsRetiredCommands : Obligations.PositionCountsRetiredCommands := by
  intro s t hstep
  refine ⟨fun w rest hmoves hrun => ?accepted, fun hother => ?other⟩
  case accepted =>
    rw [step_of_moves_cons hmoves] at hstep
    exact issueWord_k (s := { s with moves := rest }) hrun hstep
  case other =>
    obtain ⟨-, rfl⟩ | ⟨m, rest, hmoves, hmake⟩ := step_inv hstep
    · rfl
    · exact makeMove_k (s := { s with moves := rest })
        (hother.imp_left fun hissue w hm => hissue w rest (hm ▸ hmoves)) hmake

/-! ## Faults -/

/-- Settles O22: the fault of a word is a function of the word. -/
theorem faultDependsOnTheWordAlone : Obligations.FaultDependsOnTheWordAlone := by
  intro w s s' t t' hrun hrun' hissue hissue'
  cases hfault : wordFault w with
  | some c =>
    rw [issueWord_fault hrun hfault] at hissue
    rw [issueWord_fault hrun' hfault] at hissue'
    cases hissue
    cases hissue'
    exact ⟨rfl, fun _ => ⟨rfl, rfl⟩⟩
  | none =>
    obtain ⟨i, -, -, hretires⟩ := issueWord_retires hfault
    rw [hretires hrun] at hissue
    rw [hretires hrun'] at hissue'
    cases hissue
    cases hissue'
    simp [hrun, hrun']

/-! ## Who writes `BUF` -/

/-- A command without a SET opcode leaves `BUF` alone. -/
theorem retired_bufByte {i : Instr} (hopc : (fieldsOf i).opc.toNat ∉ [0x20, 0x21, 0x22]) (s : State) (a : Nat) :
    bufByte (retired i s) a = bufByte s a := by
  cases i with
  | setu8 | setu16be | setu16le | setu32be | setu32le => simp [fieldsOf, setFields] at hopc
  | getu8 | getu16be | getu16le | getu32be | getu32le | getstr | csumbe | csumle | punpk => rfl

theorem issueWord_bufByte {w : Command} {s t : State} (hissue : issueWord w s = .next t)
    (hquiet : (w.extractLsb' 56 8).toNat ∉ [0x20, 0x21, 0x22] ∨ s.status.f = true ∨ t.status.f = true) (a : Nat) :
    bufByte t a = bufByte s a := by
  obtain ⟨-, rfl⟩ | ⟨c, -, -, rfl⟩ | ⟨i, hrun, hdec, -, rfl⟩ := issueWord_inv hissue
  · rfl
  · rfl
  · obtain hopc | hhalt | hhalt := hquiet
    · obtain ⟨-, hfields⟩ := decodeFields_eq_ok.1 hdec
      exact retired_bufByte (by rwa [← hfields]) s a
    · simp [hrun] at hhalt
    · simp [hrun] at hhalt

/-- Settles O54: of the moves left, only an issue can store, and then it is a SET that retires. -/
theorem onlyStoresChangeBuf : Obligations.OnlyStoresChangeBuf := by
  intro s t hstep hwrite hissue a
  obtain ⟨-, rfl⟩ | ⟨m, rest, hmoves, hmake⟩ := step_inv hstep
  · rfl
  · cases m with
    | issue w => exact issueWord_bufByte hmake (hissue w rest hmoves) a
    | writeBuf a b => exact absurd hmoves (hwrite a b rest)
    | readReg | readBuf | reset =>
      cases hmake
      rfl

/-! ## The ports -/

/-- Settles O17: the port stores like SETU8 and reads like GETU8. -/
theorem bufferPort : Obligations.BufferPort := by
  intro s a b
  refine ⟨⟨_, rfl, rfl⟩, bufByte_store_same s a.toNat b, fun a' => bufByte_store_other s a.toNat a' b, rfl,
    fun hrun => ?_⟩
  have hin : a.toNat + 1 ≤ 512 := a.isLt
  exact ⟨_, _, exec_of_inside (i := .setu8 a.toNat b) hrun rfl hin, rfl,
    exec_of_inside (i := .getu8 a.toNat) hrun rfl hin, zeroExtend_extractLsb' _⟩

theorem flagBit_getLsbD (b : Bool) (n : Nat) {j : Nat} (hin : j < 32) :
    (flagBit b n).getLsbD j = (b && decide (j = n)) := by
  cases b with
  | false => simp [flagBit]
  | true =>
    simp only [flagBit, if_true, BitVec.getLsbD_shiftLeft, BitVec.getLsbD_one]
    by_cases hj : j = n
    · simp [← hj, hin]
    · simp [hin, hj]
      omega

/-- Bit `j` of the word, by the layout of 10_state.md R33. -/
theorem statusWord_getLsbD (t : Status) {j : Nat} (hj : j < 32) : (statusWord t).getLsbD j =
    (t.f && decide (j = 0) || decide (1 ≤ j) && t.fc.getLsbD (j - 1) || t.x && decide (j = 4) ||
      t.pv && decide (j = 5) || t.pa && decide (j = 6) || t.pb && decide (j = 7) || t.px && decide (j = 8) ||
      t.pr && decide (j = 9)) := by
  have hfc : (t.fc.setWidth 32 <<< 1).getLsbD j = (decide (1 ≤ j) && t.fc.getLsbD (j - 1)) := by
    rw [BitVec.getLsbD_shiftLeft, BitVec.getLsbD_setWidth]
    cases j with
    | zero => rfl
    | succ j => simp [hj, Nat.lt_of_succ_lt hj]
  simp only [statusWord, BitVec.getLsbD_or, hfc, flagBit_getLsbD _ _ hj]

/-- Settles O16: each field fills its own bits of the word and no other. -/
theorem statusLayout : Obligations.StatusLayout := by
  intro t
  have hfc : (statusWord t).extractLsb' 1 3 = t.fc := by
    refine BitVec.eq_of_getLsbD_eq fun j hj => ?_
    have hother {n : Nat} (hn : 4 ≤ n) : ¬ 1 + j = n := by omega
    rw [BitVec.getLsbD_extractLsb', statusWord_getLsbD t (by omega)]
    simp [hj, hother]
  have hzero : (statusWord t).extractLsb' 10 22 = 0 := by
    refine BitVec.eq_of_getLsbD_eq fun j hj => ?_
    have hother {n : Nat} (hn : n ≤ 9) : ¬ 10 + j = n := by omega
    rw [BitVec.getLsbD_extractLsb', statusWord_getLsbD t (by omega), BitVec.getLsbD_of_ge t.fc _ (by omega)]
    simp [hother]
  refine ⟨?_, hfc, ?_, ?_, ?_, ?_, ?_, ?_, hzero⟩ <;> rw [statusWord_getLsbD t (by decide)] <;> simp

theorem statusWord_reset : statusWord Status.reset = 0 := by decide

/-- Settles O18: reset gives the registers their reset values, and while halted no other step changes `STATUS`. -/
theorem resetClearsRegisters : Obligations.ResetClearsRegisters := by
  intro s
  refine ⟨rfl, rfl, rfl, fun i => by simp, rfl, rfl, rfl, rfl, rfl, rfl, statusWord_reset, rfl, rfl, fun _ => rfl, rfl,
    fun hmoves => step_of_moves_nil hmoves, fun t hstep hhalt hreset => ?_⟩
  rw [halted_step_frame hstep hhalt hreset]
  exact hhalt

/-- Settles O19: the registers by the port's table, a byte of `BUF` by the empty list of written bytes. -/
theorem resetStateValues : Obligations.ResetStateValues :=
  ⟨by decide, fun _ => rfl, rfl, rfl, rfl⟩

end Sys2Proof.Proofs.StepFamily
end

section
/-! PROOFS of the encoding as a whole: decoder and encoder are inverse (30_encoding.md R91), and the decoder is the
match-and-mask table of 30_encoding.md section 4, row by row. -/

namespace Sys2Proof.Proofs.Codec

open Sys2Proof Sys2Proof.Machine Sys2Proof.Safety Sys2Proof.Proofs.GetFamily

/-- Settles O1: the command's own word decodes to it. -/
theorem decodeOfEncodeIsTheCommand : Obligations.DecodeOfEncodeIsTheCommand :=
  fun _ hwf => decode_eq_ok.2 ⟨hwf, rfl⟩

/-- Settles O2: no other word does. -/
theorem encodeOfDecodeIsTheWord : Obligations.EncodeOfDecodeIsTheWord := by
  intro w i hdec
  obtain ⟨hwf, hword⟩ := decode_eq_ok.1 hdec
  exact ⟨hword.symm, hwf⟩

/-- Settles O4: each word is computed. -/
theorem exampleWordsDecode : Obligations.ExampleWordsDecode := by
  unfold Obligations.ExampleWordsDecode
  decide

/-! ## Matching under a mask, field by field -/

/-- The fields of a word under a mask. -/
def maskFields (c m : Fields) : Fields where
  opc := c.opc &&& m.opc
  e := c.e &&& m.e
  rsv := c.rsv &&& m.rsv
  aux := c.aux &&& m.aux
  off := c.off &&& m.off
  imm := c.imm &&& m.imm

theorem cutFields_and (w m : Command) : cutFields (w &&& m) = maskFields (cutFields w) (cutFields m) := by
  simp [cutFields, maskFields, BitVec.extractLsb'_and]

theorem cutFields_inj {w w' : Command} : cutFields w = cutFields w' ↔ w = w' :=
  ⟨fun h => by rw [← joinFields_cutFields w, h, joinFields_cutFields], congrArg cutFields⟩

/-- A word matches a pattern under a mask iff each field does. -/
theorem matches_iff {w mask pattern : Command} :
    w &&& mask = pattern ↔ maskFields (cutFields w) (cutFields mask) = cutFields pattern := by
  rw [← cutFields_and, cutFields_inj]

theorem eq_encode_iff {w : Command} {i : Instr} : w = encode i ↔ cutFields w = fieldsOf i := by
  rw [← cutFields_inj, encode, cutFields_joinFields]

/-- `imm` matches 0 above its low `n` bits iff it is those bits, zero-extended (30_encoding.md R97, R102). -/
theorem imm_and_eq_zero_iff (w : Command) (n : Nat) :
    w.extractLsb' 0 32 &&& BitVec.allOnes 32 <<< n = 0#32 ↔ w.extractLsb' 0 32 = (w.extractLsb' 0 n).setWidth 32 := by
  simp only [BitVec.eq_of_getLsbD_eq_iff]
  refine forall₂_congr fun j hj => ?_
  rw [BitVec.getLsbD_and, BitVec.getLsbD_shiftLeft, BitVec.getLsbD_allOnes, BitVec.getLsbD_setWidth]
  by_cases hn : j < n
  · simp [hj, hn]
  · simp [hj, hn, show j - n < 32 by omega]

/-- The rows of GET and SET: `off` and the low `n` bits of `imm` are free, `aux` is 0. -/
theorem set_matches_iff {w mask pattern : Command} (n : Nat) {opc : BitVec 8} {e : BitVec 1}
    (hmask : cutFields mask = ⟨.allOnes 8, .allOnes 1, .allOnes 3, .allOnes 10, 0, BitVec.allOnes 32 <<< n⟩)
    (hpattern : cutFields pattern = setFields opc e 0 0) :
    w &&& mask = pattern ↔ cutFields w = setFields opc e (offField w) ((w.extractLsb' 0 n).setWidth 32) := by
  rw [matches_iff, hmask, hpattern]
  simp only [maskFields, setFields, cutFields, offField, BitVec.and_allOnes, BitVec.and_zero, BitVec.ofNat_toNat,
    BitVec.setWidth_eq, Fields.mk.injEq, imm_and_eq_zero_iff, BitVec.ofNat_eq_ofNat, true_and]

/-- The rows of GETSTR, CSUM and PUNPK: `off` and `aux` are free, `imm` is 0. -/
theorem range_matches_iff {w mask pattern : Command} {opc : BitVec 8} {e : BitVec 1}
    (hmask : cutFields mask = ⟨.allOnes 8, .allOnes 1, .allOnes 3, 0, 0, .allOnes 32⟩)
    (hpattern : cutFields pattern = rangeFields opc e 0 0) :
    w &&& mask = pattern ↔ cutFields w = rangeFields opc e (offField w) (auxField w) := by
  rw [matches_iff, hmask, hpattern]
  simp only [maskFields, rangeFields, cutFields, offField, auxField, BitVec.and_allOnes, BitVec.and_zero,
    BitVec.ofNat_toNat, BitVec.setWidth_eq, Fields.mk.injEq, BitVec.ofNat_eq_ofNat, true_and]

/-- A word matches a row iff it is the word of the row's command with the word's own fields as operands. -/
theorem row_matches_iff (w : Command) :
    ∀ r ∈ commandTable, w &&& r.mask = r.pattern ↔ w = encode (r.command w) := by
  simp only [commandTable, List.forall_mem_cons, eq_encode_iff]
  have hget {pattern : Command} {opc : BitVec 8} {e : BitVec 1} (hpattern : cutFields pattern = setFields opc e 0 0) :
      w &&& 0xFFFFFC00FFFFFFFF = pattern ↔ cutFields w = getFields opc e (offField w) := by
    rw [set_matches_iff 0 (by decide) hpattern]
    simp [setFields, getFields]
  exact ⟨hget rfl, hget rfl, hget rfl, hget rfl, hget rfl,
    set_matches_iff 8 (by decide) rfl, set_matches_iff 16 (by decide) rfl, set_matches_iff 16 (by decide) rfl,
    set_matches_iff 32 (by decide) rfl, set_matches_iff 32 (by decide) rfl,
    range_matches_iff (by decide) rfl, range_matches_iff (by decide) rfl, range_matches_iff (by decide) rfl,
    range_matches_iff (by decide) rfl, by simp⟩

/-- The row of a command: the table lists the rows in the order of the constructors (30_encoding.md R96). -/
def rowOf (i : Instr) : TableRow := commandTable[i.ctorIdx]'(by cases i <;> simp [commandTable, Instr.ctorIdx])

theorem rowOf_mem (i : Instr) : rowOf i ∈ commandTable := List.getElem_mem _

theorem rowOf_command (w : Command) : ∀ r ∈ commandTable, rowOf (r.command w) = r := by
  simp only [commandTable, List.forall_mem_cons]
  exact ⟨rfl, rfl, rfl, rfl, rfl, rfl, rfl, rfl, rfl, rfl, rfl, rfl, rfl, rfl, by simp⟩

/-- The operands of a row's command are fields of the word. -/
theorem wellFormed_row_command (w : Command) : ∀ r ∈ commandTable, wellFormed (r.command w) = true := by
  have hoff : fitsField (offField w) = true := fitsField_toNat _
  have haux : fitsField (auxField w) = true := fitsField_toNat _
  simp [commandTable, wellFormed, hoff, haux]

/-- A row reads the operands of its command back from the command's word. -/
theorem rowOf_command_encode {i : Instr} (hwf : wellFormed i = true) : (rowOf i).command (encode i) = i := by
  have hcut : cutFields (encode i) = fieldsOf i := cutFields_joinFields _
  have hoff : offField (encode i) = (fieldsOf i).off.toNat := congrArg (·.off.toNat) hcut
  have haux : auxField (encode i) = (fieldsOf i).aux.toNat := congrArg (·.aux.toNat) hcut
  have himm {n : Nat} (hn : n ≤ 32) : (encode i).extractLsb' 0 n = (fieldsOf i).imm.setWidth n := by
    rw [← hcut]
    refine BitVec.eq_of_getLsbD_eq fun j hj => ?_
    simp [cutFields, hj, Nat.lt_of_lt_of_le hj hn]
  cases i with
  | getu8 | getu16be | getu16le | getu32be | getu32le =>
    simp [rowOf, commandTable, Instr.ctorIdx, hoff, fieldsOf, getFields, toNat_ofNat_of_fitsField hwf]
  | setu8 | setu16be | setu16le | setu32be | setu32le =>
    simp [rowOf, commandTable, Instr.ctorIdx, hoff, himm, fieldsOf, setFields, toNat_ofNat_of_fitsField hwf]
  | getstr | csumbe | csumle | punpk =>
    obtain ⟨hwfoff, hwfaux⟩ := Bool.and_eq_true_iff.1 hwf
    simp [rowOf, commandTable, Instr.ctorIdx, hoff, haux, fieldsOf, rangeFields, toNat_ofNat_of_fitsField hwfoff,
      toNat_ofNat_of_fitsField hwfaux]

theorem decode_of_matches {w : Command} {r : TableRow} (hr : r ∈ commandTable) (hmatch : w &&& r.mask = r.pattern) :
    decode w = .ok (r.command w) :=
  decode_eq_ok.2 ⟨wellFormed_row_command w r hr, (row_matches_iff w r hr).1 hmatch⟩

/-- Settles O3: a row matches exactly the words of its commands, and the decoder accepts exactly the words of
commands. -/
theorem decodeFollowsMatchAndMask : Obligations.DecodeFollowsMatchAndMask := by
  intro w
  refine ⟨fun r hr => decode_of_matches hr, fun hnone => ?none, fun r hr r' hr' hmatch hmatch' => ?unique⟩
  case none =>
    cases hdec : decode w with
    | error e => exact ⟨e, rfl⟩
    | ok i =>
      obtain ⟨hwf, rfl⟩ := decode_eq_ok.1 hdec
      have hmatch := (row_matches_iff _ _ (rowOf_mem i)).2 (by rw [rowOf_command_encode hwf])
      exact absurd hmatch (hnone _ (rowOf_mem i))
  case unique =>
    have hsame : r.command w = r'.command w :=
      Except.ok.inj ((decode_of_matches hr hmatch).symm.trans (decode_of_matches hr' hmatch'))
    rw [← rowOf_command w r hr, hsame, rowOf_command w r' hr']

end Sys2Proof.Proofs.Codec
end

section
/-! PROOFS of how commands compose: wide GETs and SETs of narrow ones (40_get.md, 41_set.md), a GET after a SET and a
second issue (20_memory.md section 7, R71), and that a command depends on the bytes it touches alone. -/

namespace Sys2Proof.Proofs.Composition

open Sys2Proof Sys2Proof.Machine Sys2Proof.Safety Sys2Proof.Proofs.MemoryFamily Sys2Proof.Proofs.GetFamily
  Sys2Proof.Proofs.ExceptionsFamily Sys2Proof.Proofs.Updates

/-! ## GETs -/

theorem big32_eq (s : State) (a : Nat) : big32 s a = big16 s a * 65536 + big16 s (a + 2) := by
  simp only [big32, big16, Nat.add_assoc, Nat.reduceAdd]
  omega

theorem little32_eq (s : State) (a : Nat) : little32 s a = little16 s a + little16 s (a + 2) * 65536 := by
  simp only [little32, little16, Nat.add_assoc, Nat.reduceAdd]
  omega

/-- Settles O29: each GET leaves the spec's value of its bytes, and these values are composed alike. -/
theorem getsCompose : Obligations.GetsCompose := by
  intro off s hrun
  have hbyte (a : Nat) : (zeroExtend (bufByte s a)).toNat = (bufByte s a).toNat := zeroExtend_toNat _ (by decide)
  have hbig := zeroExtend_read16_big_toNat s
  have hlittle := zeroExtend_read16_little_toNat s
  refine ⟨fun hin => ?half, fun hin => ?word⟩
  case half =>
    refine ⟨_, _, _, _, exec_of_inside (i := .getu8 off) hrun rfl (Nat.le_of_succ_le hin),
      exec_of_inside (i := .getu8 (off + 1)) hrun rfl hin, exec_of_inside (i := .getu16be off) hrun rfl hin,
      exec_of_inside (i := .getu16le off) hrun rfl hin, ?_, ?_⟩
    · exact (hbig off).trans (by rw [big16, ← hbyte, ← hbyte]; rfl)
    · exact (hlittle off).trans (by rw [little16, ← hbyte, ← hbyte]; rfl)
  case word =>
    have hlow : off + 2 ≤ 512 := by omega
    refine ⟨_, _, _, _, _, _, exec_of_inside (i := .getu16be off) hrun rfl hlow,
      exec_of_inside (i := .getu16be (off + 2)) hrun rfl hin, exec_of_inside (i := .getu16le off) hrun rfl hlow,
      exec_of_inside (i := .getu16le (off + 2)) hrun rfl hin, exec_of_inside (i := .getu32be off) hrun rfl hin,
      exec_of_inside (i := .getu32le off) hrun rfl hin, ?_, ?_⟩
    · exact (read32_big_toNat s off).trans (by rw [big32_eq, ← hbig, ← hbig]; rfl)
    · exact (read32_little_toNat s off).trans (by rw [little32_eq, ← hlittle, ← hlittle]; rfl)

/-- Exchanging the bytes of a big-endian value gives the little-endian one. -/
theorem zeroExtend_join16_little (b0 b1 : Byte) :
    zeroExtend (join16 .little b0 b1) =
      0#16 ++ (zeroExtend (join16 .big b0 b1)).extractLsb' 0 8 ++ (zeroExtend (join16 .big b0 b1)).extractLsb' 8 8 := by
  have h0 := b0.isLt
  have h1 := b1.isLt
  apply BitVec.eq_of_toNat_eq
  rw [toNat_append, toNat_append]
  simp only [BitVec.extractLsb'_toNat, Nat.shiftRight_eq_div_pow, zeroExtend_toNat _ (by decide : 16 ≤ 32),
    join16_big_toNat, join16_little_toNat, BitVec.toNat_ofNat]
  omega

/-- Splitting a joined value gives back its bytes (00_scope.md R12). -/
theorem bytes32_join32_big (b0 b1 b2 b3 : Byte) : bytes32 .big (join32 .big b0 b1 b2 b3) = [b0, b1, b2, b3] := by
  have h0 := b0.isLt
  have h1 := b1.isLt
  have h2 := b2.isLt
  have h3 := b3.isLt
  simp only [bytes32, List.cons.injEq, ← BitVec.toNat_inj, BitVec.extractLsb'_toNat, Nat.shiftRight_eq_div_pow,
    join32_big_toNat, Nat.reducePow, and_true]
  omega

/-- Reversing the bytes of a big-endian value gives the little-endian one. -/
theorem join32_little (b0 b1 b2 b3 : Byte) :
    join32 .little b0 b1 b2 b3 =
      (join32 .big b0 b1 b2 b3).extractLsb' 0 8 ++ (join32 .big b0 b1 b2 b3).extractLsb' 8 8 ++
        (join32 .big b0 b1 b2 b3).extractLsb' 16 8 ++ (join32 .big b0 b1 b2 b3).extractLsb' 24 8 := by
  have hbytes := bytes32_join32_big b0 b1 b2 b3
  simp only [bytes32, List.cons.injEq] at hbytes
  obtain ⟨h24, h16, h8, h0, -⟩ := hbytes
  rw [h0, h8, h16, h24, join32]

/-- Settles O30: both GETs read the same bytes, and the joins in the two orders are reversals of each other. -/
theorem littleEndianIsByteReversal : Obligations.LittleEndianIsByteReversal := by
  intro off s hrun
  refine ⟨fun hin => ?half, fun hin => ?word⟩
  case half =>
    exact ⟨_, _, exec_of_inside (i := .getu16be off) hrun rfl hin, exec_of_inside (i := .getu16le off) hrun rfl hin,
      zeroExtend_join16_little _ _⟩
  case word =>
    exact ⟨_, _, exec_of_inside (i := .getu32be off) hrun rfl hin, exec_of_inside (i := .getu32le off) hrun rfl hin,
      join32_little _ _ _ _⟩

/-! ## SETs -/

/-- The command is a SET that stores these bytes at `off`. -/
structure IsStore (i : Instr) (off : Nat) (bytes : List Byte) : Prop where
  firstPasses : firstCheck i = none
  range : touched i = (off, bytes.length)
  update : ∀ s, updateOf i s = .store off bytes

theorem exec_store {i : Instr} {off : Nat} {bytes : List Byte} {s : State} (h : IsStore i off bytes)
    (hrun : s.status.f = false) (hin : off + bytes.length ≤ 512) :
    exec i s = .next (retire (memWrite s off bytes)) := by
  rw [exec_of_inside hrun h.firstPasses (by rw [h.range]; exact hin), retired, h.update]
  rfl

theorem memWrite_retire (bytes : List Byte) (s : State) (a : Nat) :
    memWrite (retire s) a bytes = retire (memWrite s a bytes) := by
  induction bytes generalizing s a with
  | nil => rfl
  | cons b bytes ih => exact ih { s with buf := Memory.store s.buf a b } (a + 1)

/-- Two SETs of adjoining bytes leave what the SET of all the bytes leaves, but for the position. -/
theorem stores_compose {i j k : Instr} {off : Nat} {l m : List Byte} {s : State} (hi : IsStore i off l)
    (hj : IsStore j (off + l.length) m) (hk : IsStore k off (l ++ m)) (hrun : s.status.f = false)
    (hin : off + (l.length + m.length) ≤ 512) :
    ∃ t u v, exec i s = .next t ∧ exec j t = .next u ∧ exec k s = .next v ∧ v = { u with k := s.k + 1 } := by
  refine ⟨_, _, _, exec_store hi hrun (by omega), exec_store hj (by simpa using hrun) (by omega),
    exec_store hk hrun (by rwa [List.length_append]), ?_⟩
  rw [memWrite_append, memWrite_retire, memWrite_eq m, memWrite_eq l]
  rfl

/-- A range of bits cut out of a range of bits. -/
theorem extractLsb'_extractLsb' {w : Nat} (v : BitVec w) {a n b m : Nat} (h : b + m ≤ n) :
    (v.extractLsb' a n).extractLsb' b m = v.extractLsb' (a + b) m := by
  refine BitVec.eq_of_getLsbD_eq fun j hj => ?_
  have hin : b + j < n := by omega
  simp [hj, hin, Nat.add_assoc]

theorem bytes32_big_eq (v : Word32) :
    bytes32 .big v = bytes16 .big (v.extractLsb' 16 16) ++ bytes16 .big (v.extractLsb' 0 16) := by
  simp [bytes32, bytes16, extractLsb'_extractLsb']

theorem bytes32_little_eq (v : Word32) :
    bytes32 .little v = bytes16 .little (v.extractLsb' 0 16) ++ bytes16 .little (v.extractLsb' 16 16) := by
  simp [bytes32, bytes16, extractLsb'_extractLsb']

/-- Settles O36: the bytes of a value are the bytes of its halves, one after the other. -/
theorem setsCompose : Obligations.SetsCompose := by
  intro off s hrun
  refine ⟨fun v hin => ⟨?half_big, ?half_little⟩, fun v hin => ⟨?word_big, ?word_little⟩⟩
  case half_big | half_little =>
    exact stores_compose (l := [_]) (m := [_]) ⟨rfl, rfl, fun _ => rfl⟩ ⟨rfl, rfl, fun _ => rfl⟩
      ⟨rfl, rfl, fun _ => rfl⟩ hrun hin
  case word_big =>
    exact stores_compose ⟨rfl, rfl, fun _ => rfl⟩ ⟨rfl, rfl, fun _ => rfl⟩
      ⟨rfl, rfl, fun _ => congrArg (Update.store off) (bytes32_big_eq v)⟩ hrun hin
  case word_little =>
    exact stores_compose ⟨rfl, rfl, fun _ => rfl⟩ ⟨rfl, rfl, fun _ => rfl⟩
      ⟨rfl, rfl, fun _ => congrArg (Update.store off) (bytes32_little_eq v)⟩ hrun hin

/-! ## A GET after a SET -/

/-- Reading a 16-bit value where it has been stored gives it back. -/
theorem read16_memWrite (o : ByteOrder) (v : Half) (s : State) (a : Nat) :
    read16 o (memWrite s a (bytes16 o v)) a = v := by
  have h0 := bufByte_memWrite_inside (bytes16 o v) s a 0 (by simp)
  have h1 := bufByte_memWrite_inside (bytes16 o v) s a 1 (by simp)
  rw [Nat.add_zero] at h0
  rw [read16, h0, h1]
  exact join16_bytes16 o v (by cases o <;> rfl)

/-- Reading a 32-bit value where it has been stored gives it back. -/
theorem read32_memWrite (o : ByteOrder) (v : Word32) (s : State) (a : Nat) :
    read32 o (memWrite s a (bytes32 o v)) a = v := by
  have h0 := bufByte_memWrite_inside (bytes32 o v) s a 0 (by simp)
  have h1 := bufByte_memWrite_inside (bytes32 o v) s a 1 (by simp)
  have h2 := bufByte_memWrite_inside (bytes32 o v) s a 2 (by simp)
  have h3 := bufByte_memWrite_inside (bytes32 o v) s a 3 (by simp)
  rw [Nat.add_zero] at h0
  rw [read32, h0, h1, h2, h3]
  exact join32_bytes32 o v (by cases o <;> rfl)

/-- Settles O37: a read of a value just stored gives it back, and zero extension keeps it. -/
theorem getAfterSetGivesTheValue : Obligations.GetAfterSetGivesTheValue := by
  intro off s hrun
  refine ⟨fun v hin => ?byte, fun v hin => ⟨?half_big, ?half_little⟩, fun v hin => ⟨?word_big, ?word_little⟩⟩
  case byte =>
    exact ⟨_, _, exec_of_inside (i := .setu8 off v) hrun rfl hin, exec_of_inside (i := .getu8 off) hrun rfl hin,
      congrArg zeroExtend (bufByte_store_same s off v)⟩
  case half_big =>
    exact ⟨_, _, exec_of_inside (i := .setu16be off v) hrun rfl hin, exec_of_inside (i := .getu16be off) hrun rfl hin,
      congrArg zeroExtend (read16_memWrite .big v s off)⟩
  case half_little =>
    exact ⟨_, _, exec_of_inside (i := .setu16le off v) hrun rfl hin, exec_of_inside (i := .getu16le off) hrun rfl hin,
      congrArg zeroExtend (read16_memWrite .little v s off)⟩
  case word_big =>
    exact ⟨_, _, exec_of_inside (i := .setu32be off v) hrun rfl hin, exec_of_inside (i := .getu32be off) hrun rfl hin,
      read32_memWrite .big v s off⟩
  case word_little =>
    exact ⟨_, _, exec_of_inside (i := .setu32le off v) hrun rfl hin, exec_of_inside (i := .getu32le off) hrun rfl hin,
      read32_memWrite .little v s off⟩

/-! ## A second issue -/

/-- A byte stored below a range commutes with the range. -/
theorem memWrite_comm_byte (bytes : List Byte) (s : State) {a a' : Nat} (c : Byte) (h : a' < a) :
    memWrite (memWrite s a' [c]) a bytes = memWrite (memWrite s a bytes) a' [c] := by
  induction bytes generalizing s a with
  | nil => rfl
  | cons b bytes ih =>
    have hcomm : memWrite (memWrite s a' [c]) a [b] = memWrite (memWrite s a [b]) a' [c] := by
      simp only [memWrite, Memory.store_comm s.buf a' a c b (by omega)]
    calc memWrite (memWrite (memWrite s a' [c]) a [b]) (a + 1) bytes
      _ = memWrite (memWrite (memWrite s a [b]) a' [c]) (a + 1) bytes := by rw [hcomm]
      _ = memWrite (memWrite (memWrite s a [b]) (a + 1) bytes) a' [c] := ih _ (by omega)

/-- Storing the same bytes again changes nothing. -/
theorem memWrite_memWrite (bytes : List Byte) (s : State) (a : Nat) :
    memWrite (memWrite s a bytes) a bytes = memWrite s a bytes := by
  induction bytes generalizing s a with
  | nil => rfl
  | cons b bytes ih =>
    have hbyte : memWrite (memWrite s a [b]) a [b] = memWrite s a [b] := by
      simp only [memWrite, Memory.store_store]
    calc memWrite (memWrite (memWrite (memWrite s a [b]) (a + 1) bytes) a [b]) (a + 1) bytes
      _ = memWrite (memWrite (memWrite s a [b]) (a + 1) bytes) (a + 1) bytes := by
        rw [← memWrite_comm_byte bytes _ b (Nat.lt_succ_self a), hbyte]
      _ = memWrite (memWrite s a [b]) (a + 1) bytes := ih _ _

theorem apply_retire_apply (u : Update) (s : State) : u.apply (retire (u.apply s)) = retire (u.apply s) := by
  cases u with
  | result | string | checksum | partition => rfl
  | store off bytes => simp only [Update.apply, memWrite_retire, memWrite_memWrite]

/-- A command computes the same update again: a SET's bytes are its operand, and no other command changes a byte. -/
theorem updateOf_retired (i : Instr) (s : State) : updateOf i (retired i s) = updateOf i s := by
  cases i with
  | setu8 | setu16be | setu16le | setu32be | setu32le => rfl
  | getu8 | getu16be | getu16le | getu32be | getu32le | getstr | csumbe | csumle | punpk =>
    exact updateOf_congr fun _ _ _ => rfl

/-- Settles O38: the command computes the same update, and applying it again changes nothing. -/
theorem secondIssueChangesNothing : Obligations.SecondIssueChangesNothing := by
  intro i s t hrun hexec hretired
  obtain ⟨hpass, rfl⟩ := eq_retired_of_running hrun hexec hretired
  rw [exec_of_checks_pass hretired hpass]
  have hagain : retired i (retired i s) = retire (retired i s) := by
    rw [retired, updateOf_retired, retired, apply_retire_apply]
  rw [hagain]
  rfl

/-! ## The bytes a command touches -/

/-- Two machines that apply the update of the command write the same. -/
theorem sameWritten_retired {i : Instr} {s s' : State} (h : updateOf i s = updateOf i s') :
    SameWritten (retired i s) (retired i s') i := by
  rw [retired, retired, ← h]
  cases i with
  | getu8 | getu16be | getu16le | getu32be | getu32le => rfl
  | getstr | csumbe | csumle => exact ⟨rfl, rfl⟩
  | punpk => exact ⟨rfl, rfl, rfl, rfl, rfl, rfl, rfl, rfl, rfl, rfl, rfl⟩
  | setu8 off val => exact bufByte_memWrite_congr s s' (bytes := [val]) le_rfl (Nat.lt_succ_self off)
  | setu16be | setu16le | setu32be | setu32le => exact fun a hlo hhi => bufByte_memWrite_congr s s' hlo hhi

/-- Settles O55: the update is the same, since it depends on the touched bytes alone. -/
theorem resultsDependOnTouchedBytesAlone : Obligations.ResultsDependOnTouchedBytesAlone := by
  intro i s s' t t' hrun hrun' hbytes hexec hexec' hretired
  obtain ⟨hpass, rfl⟩ := eq_retired_of_running hrun hexec hretired
  cases (exec_of_checks_pass hrun' hpass).symm.trans hexec'
  exact sameWritten_retired (updateOf_congr hbytes)

/-! ## The host's call sites -/

/-- A command with code 0 in the fault table retires on every running BAC. -/
theorem exec_retires_of_faultCodeOf {i : Instr} (hcode : faultCodeOf i = 0) {s : State} (hrun : s.status.f = false) :
    ∃ t, exec i s = .next t ∧ t.status.f = false ∧ t.k = s.k + 1 := by
  have hpass : (firstCheck i).or (rangeCheck i) = none := by
    rw [← checkCode_eq_faultCodeOf] at hcode
    cases hcheck : (firstCheck i).or (rangeCheck i) with
    | none => rfl
    | some c =>
      rw [hcheck] at hcode
      exact absurd hcode (causeCode_toNat_ne_zero c)
  exact ⟨_, exec_of_checks_pass hrun hpass, (retired_f i s).trans hrun, retired_k i s⟩

theorem faultCodeOf_sectorCalls :
    ∀ i ∈ rootSectorCalls ++ bootSectorCalls ++ mbrSignatureCalls, faultCodeOf i = 0 := by
  decide

theorem faultCodeOf_mbrEntryCalls {k : Nat} (hk : k ≤ 3) (flags type : Byte) (start count : Word32) :
    ∀ i ∈ mbrEntryCalls k flags type start count, faultCodeOf i = 0 := by
  simp [mbrEntryCalls, faultCodeOf]
  omega

/-- Settles O52: every command of the lists has code 0 in the fault table. -/
theorem hostCallSitesRetire : Obligations.HostCallSitesRetire := fun _ hrun =>
  ⟨fun i hi => exec_retires_of_faultCodeOf (faultCodeOf_sectorCalls i hi) hrun,
    fun _ flags type start count hk i hi =>
      exec_retires_of_faultCodeOf (faultCodeOf_mbrEntryCalls hk flags type start count i hi) hrun⟩

end Sys2Proof.Proofs.Composition
end

section
/-! PROOFS of the laws of the checksums (43_csum.md) and of the trimming of a tag (42_getstr.md, 44_punpk.md). -/

namespace Sys2Proof.Proofs.Sums

open Sys2Proof Sys2Proof.Machine Sys2Proof.Safety Sys2Proof.Proofs.CsumFamily Sys2Proof.Proofs.Updates
  Sys2Proof.Proofs.Composition

/-! ## Trimming a tag -/

/-- A field that ends in no padding byte is left whole. -/
theorem trimmedLength_succ_of_last {pad : Byte → Bool} {s : State} {off n : Nat}
    (hlast : pad (bufByte s (off + n)) = false) : trimmedLength pad s off (n + 1) = n + 1 := by
  simp [trimmedLength, hlast]

/-- Settles O40: every tag has three bytes and ends in 0x4D, so that a field is trimmed only if it is no tag. -/
theorem trimmingCannotChangeATag : Obligations.TrimmingCannotChangeATag := by
  intro pad s a hM _ _ tag htag
  have hshape : tag.length = 3 ∧ tag[2]? = some 0x4D#8 := by
    revert tag
    decide
  obtain ⟨hlength, hlast⟩ := hshape
  constructor
  · intro htrimmed
    have hwhole : trimmedLength pad s a 3 = 3 := by simpa [hlength] using congrArg List.length htrimmed
    rwa [hwhole] at htrimmed
  · rintro rfl
    have hbyte : bufByte s (a + 2) = 0x4D := by simpa using hlast
    rw [trimmedLength_succ_of_last (by rw [hbyte, hM])]

/-! ## The checksum commands -/

theorem exec_csumbe_of_inside {s : State} {off len : Nat} (hrun : s.status.f = false) (heven : len % 2 = 0)
    (hin : off + len ≤ 512) : exec (.csumbe off len) s = .next (retired (.csumbe off len) s) :=
  exec_of_inside hrun (oddLenCheck_ok heven) hin

theorem exec_csumle_of_inside {s : State} {off len : Nat} (hrun : s.status.f = false) (heven : len % 2 = 0)
    (hin : off + len ≤ 512) : exec (.csumle off len) s = .next (retired (.csumle off len) s) :=
  exec_of_inside hrun (oddLenCheck_ok heven) hin

/-- Settles O43: a big-endian word is 256 times its even byte plus its odd one, a little-endian word the other way
round. -/
theorem csumByEvenAndOddBytes : Obligations.CsumByEvenAndOddBytes := by
  intro off len E O s hrun heven hin hE hO
  refine ⟨_, _, exec_csumbe_of_inside hrun heven hin, exec_csumle_of_inside hrun heven hin, ?_, ?_⟩
  · refine (wordSum_toNat .big s off (len / 2)).trans ?_
    simp only [read16_big_toNat, big16, List.sum_map_add, List.sum_map_mul_right, ← hE, ← hO]
    rw [mul_comm]
  · refine (wordSum_toNat .little s off (len / 2)).trans ?_
    simp only [read16_little_toNat, little16, List.sum_map_add, List.sum_map_mul_right, ← hE, ← hO]
    rw [mul_comm O]

/-- The word sum is the sum of the words in the ring of 16-bit values. -/
theorem wordSum_eq_sum (o : ByteOrder) (s : State) (off n : Nat) :
    wordSum o s off n = ∑ i : Fin n, read16 o s (off + 2 * i) := by
  induction n with
  | zero => rfl
  | succ n ih => rw [wordSum_succ, ih, Fin.sum_univ_castSucc]; rfl

/-- Settles O44: a sum does not depend on the order of its terms. -/
theorem csumIgnoresWordOrder : Obligations.CsumIgnoresWordOrder := by
  intro off len s t p hruns hrunt heven hin hperm
  have hword (o : ByteOrder) (i : Fin (len / 2)) : read16 o t (off + 2 * i) = read16 o s (off + 2 * p i) := by
    rw [read16, read16, (hperm i).1, (hperm i).2]
  have hsum (o : ByteOrder) : wordSum o s off (len / 2) = wordSum o t off (len / 2) := by
    simp only [wordSum_eq_sum, hword]
    exact (Equiv.sum_comp p fun i => read16 o s (off + 2 * i)).symm
  exact ⟨_, _, _, _, exec_csumbe_of_inside hruns heven hin, exec_csumbe_of_inside hrunt heven hin, hsum .big,
    exec_csumle_of_inside hruns heven hin, exec_csumle_of_inside hrunt heven hin, hsum .little⟩

/-! ## Exchanging two bytes -/

/-- What a byte at position `n` of the range counts for in the big-endian sum. -/
def weight (n : Nat) : Half := if n % 2 = 0 then 256#16 else 1#16

/-- The byte at position `n` of the range, as a term of the sum. -/
def byteTerm (s : State) (off n : Nat) : Half := (bufByte s (off + n)).setWidth 16

theorem read16_big_eq (s : State) (off n : Nat) :
    read16 .big s (off + 2 * n) =
      weight (2 * n) * byteTerm s off (2 * n) + weight (2 * n + 1) * byteTerm s off (2 * n + 1) := by
  have h0 := (bufByte s (off + 2 * n)).isLt
  have h1 := (bufByte s (off + (2 * n + 1))).isLt
  have heven : weight (2 * n) = 256#16 := if_pos (by omega)
  have hodd : weight (2 * n + 1) = 1#16 := if_neg (by omega)
  rw [heven, hodd]
  apply BitVec.eq_of_toNat_eq
  rw [read16_big_toNat, big16, add_assoc]
  simp only [byteTerm, BitVec.toNat_add, BitVec.toNat_mul, BitVec.toNat_setWidth, BitVec.toNat_ofNat]
  omega

/-- The big-endian sum byte by byte. -/
theorem wordSum_big_eq_sum (s : State) (off n : Nat) :
    wordSum .big s off n = ∑ j ∈ Finset.range (2 * n), weight j * byteTerm s off j := by
  induction n with
  | zero => rfl
  | succ n ih =>
    rw [wordSum_succ, ih, read16_big_eq, Nat.mul_succ, Finset.sum_range_succ, Finset.sum_range_succ, add_assoc]

/-- The exchange of the bytes at `i` and `j` changes the sum by the difference of the weights times that of the
bytes. -/
theorem wordSum_exchange {off n i j : Nat} {s t : State} (hi : i < 2 * n) (hj : j < 2 * n)
    (hti : bufByte t (off + i) = bufByte s (off + j)) (htj : bufByte t (off + j) = bufByte s (off + i))
    (hother : ∀ m, m < 2 * n → m ≠ i → m ≠ j → bufByte t (off + m) = bufByte s (off + m)) :
    wordSum .big t off n - wordSum .big s off n = (weight i - weight j) * (byteTerm s off j - byteTerm s off i) := by
  have hterm (m : Nat) (hm : m ∈ Finset.range (2 * n)) : weight m * byteTerm t off m - weight m * byteTerm s off m =
      (if m = i then weight m * (byteTerm s off j - byteTerm s off i) else 0) -
        (if m = j then weight m * (byteTerm s off j - byteTerm s off i) else 0) := by
    by_cases hmi : m = i
    · subst hmi
      by_cases hmj : m = j
      · subst hmj
        simp [byteTerm, hti]
      · simp only [byteTerm, hti, hmj, if_true, if_false]
        ring
    · by_cases hmj : m = j
      · subst hmj
        simp only [byteTerm, htj, hmi, if_true, if_false]
        ring
      · simp [byteTerm, hother m (Finset.mem_range.1 hm) hmi hmj, hmi, hmj]
  rw [wordSum_big_eq_sum, wordSum_big_eq_sum, ← Finset.sum_sub_distrib, Finset.sum_congr rfl hterm,
    Finset.sum_sub_distrib, Finset.sum_ite_eq', Finset.sum_ite_eq', if_pos (Finset.mem_range.2 hi),
    if_pos (Finset.mem_range.2 hj), sub_mul]

/-- Multiplying by an odd number, as the weights of different parity differ by one, loses nothing modulo 65536. -/
theorem mul_eq_zero_iff_of_weights {w d : Half} (hw : w = 255#16 ∨ w = 65281#16) : w * d = 0 ↔ d = 0 := by
  have hd := d.isLt
  rw [← BitVec.toNat_inj, ← BitVec.toNat_inj, BitVec.toNat_mul]
  obtain rfl | rfl := hw <;> simp only [BitVec.toNat_ofNat, BitVec.ofNat_eq_ofNat] <;> omega

theorem weight_sub_weight {i j : Nat} (h : i % 2 ≠ j % 2) :
    weight i - weight j = 255#16 ∨ weight i - weight j = 65281#16 := by
  by_cases hi : i % 2 = 0
  · have hj : j % 2 ≠ 0 := by omega
    exact .inl (by rw [weight, weight, if_pos hi, if_neg hj]; rfl)
  · have hj : j % 2 = 0 := by omega
    exact .inr (by rw [weight, weight, if_neg hi, if_pos hj]; rfl)

theorem byteTerm_inj {s : State} {off i j : Nat} :
    byteTerm s off i = byteTerm s off j ↔ bufByte s (off + i) = bufByte s (off + j) := by
  rw [byteTerm, byteTerm, ← BitVec.toNat_inj, ← BitVec.toNat_inj, BitVec.toNat_setWidth_of_le (by decide),
    BitVec.toNat_setWidth_of_le (by decide)]

/-- Settles O45: the sums are equal exactly if the change is 0. -/
theorem csumSeesByteExchange : Obligations.CsumSeesByteExchange := by
  intro off len i j s t hruns hrunt heven hin hi hj hti htj hother
  have hlen : 2 * (len / 2) = len := by omega
  have hchange := wordSum_exchange (n := len / 2) (by omega) (by omega) hti htj fun m hm => hother m (by omega)
  have hsame : wordSum .big s off (len / 2) = wordSum .big t off (len / 2) ↔
      (weight i - weight j) * (byteTerm s off j - byteTerm s off i) = 0 := by
    rw [← hchange, sub_eq_zero, eq_comm]
  refine ⟨_, _, exec_csumbe_of_inside hruns heven hin, exec_csumbe_of_inside hrunt heven hin,
    fun hparity => hsame.2 ?_, fun hparity => hsame.trans ?_⟩
  · rw [weight, weight, hparity, sub_self, zero_mul]
  · rw [mul_eq_zero_iff_of_weights (weight_sub_weight hparity), sub_eq_zero, byteTerm_inj, eq_comm]

/-! ## The balancing word -/

theorem wordSum_retire (o : ByteOrder) (s : State) (off n : Nat) : wordSum o (retire s) off n = wordSum o s off n :=
  wordSum_congr o _ _ off n fun _ _ _ => rfl

/-- The last word of the sector adds what the first 255 lack. -/
theorem wordSum_balanced (s : State) :
    wordSum .big (memWrite s 510 (bytes16 .big (0x1234 - wordSum .big s 0 255))) 0 256 = 0x1234 := by
  have hlast (w : Half) : read16 .big (memWrite s 510 (bytes16 .big w)) (0 + 2 * 255) = w :=
    read16_memWrite .big w s 510
  have hfirst (w : Half) : wordSum .big (memWrite s 510 (bytes16 .big w)) 0 255 = wordSum .big s 0 255 :=
    wordSum_congr _ _ _ _ _ fun a _ ha => bufByte_memWrite_outside _ _ _ _ (.inl (by omega))
  rw [wordSum_succ, hlast, hfirst, add_sub_cancel]

/-- Settles O46: neither the position nor `SUM` is read by the sum, so the balance holds through the three commands. -/
theorem balancingWordMakesExecutable : Obligations.BalancingWordMakesExecutable := by
  intro s hrun
  obtain ⟨t, ht, hsum, hrunt⟩ :
      ∃ t, exec (.csumbe 0 510) s = .next t ∧ t.sum = wordSum .big t 0 255 ∧ t.status.f = false :=
    ⟨_, exec_csumbe_of_inside hrun rfl (by decide), wordSum_congr _ _ _ _ _ fun _ _ _ => rfl, hrun⟩
  obtain ⟨u, hu, hbalanced, hrunu⟩ :
      ∃ u, exec (.setu16be 0x1FE (0x1234 - t.sum)) t = .next u ∧ wordSum .big u 0 256 = 0x1234 ∧
        u.status.f = false := by
    refine ⟨_, exec_store ⟨rfl, rfl, fun _ => rfl⟩ hrunt (by simp), ?_, by simpa using hrunt⟩
    rw [hsum, wordSum_retire]
    exact wordSum_balanced t
  exact ⟨t, u, _, ht, hu, exec_csumbe_of_inside hrunu rfl (by decide), hbalanced, (flagX_iff _).2 hbalanced⟩

end Sys2Proof.Proofs.Sums
end

section
/-! PROOFS of the verdicts of PUNPK (44_punpk.md), its agreement with the GETs, and the host's arithmetic on what it
leaves (10_state.md R52). -/

namespace Sys2Proof.Proofs.Partition

open Sys2Proof Sys2Proof.Machine Sys2Proof.Safety Sys2Proof.Proofs.GetstrFamily Sys2Proof.Proofs.PunpkFamily
  Sys2Proof.Proofs.Updates

/-! ## The flags by the value of the flags byte -/

/-- The four flag values with all reserved bits zero (44_punpk.md R188). -/
theorem reserved_eq_zero_iff (f : Byte) : f &&& 0x7E = 0 ↔ f.toNat ∈ [0x00, 0x01, 0x80, 0x81] := by
  revert f
  decide

theorem flagPA_iff (f : Byte) : flagPA f = true ↔ f.toNat % 2 = 1 := by
  revert f
  decide

theorem flagPB_iff (f : Byte) : flagPB f = true ↔ 128 ≤ f.toNat := by
  revert f
  decide

theorem flagPX_eq_false_iff {t : Tag} : flagPX t = false ↔ t ≠ 0x58474D := by
  rw [Ne, ← flagPX_iff, Bool.not_eq_true]

theorem flagPV_iff_of_legal {t : Tag} (f : Byte) (h : t = 0x47454D ∨ t = 0x42474D ∨ t = 0x58474D) :
    flagPV f t = true ↔ f.toNat ∈ [0x00, 0x01, 0x80, 0x81] := by
  rw [flagPV_iff, and_iff_left h, reserved_eq_zero_iff]

theorem flagPX_of_plain {t : Tag} (h : t = 0x47454D ∨ t = 0x42474D) : flagPX t = false := by
  obtain rfl | rfl := h <;> decide

/-- A slot that is no container is real exactly with flags 01 and 81 (44_punpk.md, the verdict table). -/
theorem flagPR_iff_of_legal {t : Tag} (f : Byte) (h : t = 0x47454D ∨ t = 0x42474D) :
    flagPR f t = true ↔ f.toNat ∈ [0x01, 0x81] := by
  rw [flagPR_iff, flagPV_iff_of_legal f (h.imp_right .inl), flagPA_iff, and_iff_left (flagPX_of_plain h)]
  simp only [List.mem_cons, List.not_mem_nil, or_false]
  omega

theorem flagPR_of_container (f : Byte) {t : Tag} (h : t = 0x58474D) : flagPR f t = false := by
  simp [flagPR, (flagPX_iff t).2 h]

theorem flagPV_of_illegal (f : Byte) {t : Tag} (h : ¬ (t = 0x47454D ∨ t = 0x42474D ∨ t = 0x58474D)) :
    flagPV f t = false := by
  rw [← Bool.not_eq_true, flagPV_iff]
  exact fun ⟨_, hlegal⟩ => h hlegal

theorem flagPR_of_invalid {f : Byte} {t : Tag} (h : flagPV f t = false) : flagPR f t = false := by
  simp [flagPR, h]

/-- Settles O48: by the type, then by the value of the flags byte. -/
theorem punpkVerdicts : Obligations.PunpkVerdicts := by
  intro off num s t hrun hexec hretired
  obtain rfl := eq_unpackSlot_of_retires hrun hexec hretired
  refine ⟨fun htype => ?plain, fun htype => ?container, fun htype => ?illegal, flagPA_iff _, flagPB_iff _⟩
  case plain =>
    exact ⟨flagPX_of_plain htype, flagPV_iff_of_legal _ (htype.imp_right .inl), flagPR_iff_of_legal _ htype⟩
  case container =>
    exact ⟨(flagPX_iff _).2 htype, flagPR_of_container _ htype, flagPV_iff_of_legal _ (.inr (.inr htype))⟩
  case illegal =>
    simp only [List.mem_cons, List.not_mem_nil, or_false] at htype
    have hpv := flagPV_of_illegal (bufByte s off) htype
    exact ⟨flagPX_eq_false_iff.2 fun hxgm => htype (.inr (.inr hxgm)), hpv, flagPR_of_invalid hpv⟩

/-! ## What other commands and the host make of a slot -/

/-- Settles O50: PUNPK and the GETs read the same bytes of `BUF`. -/
theorem punpkAgreesWithTheGets : Obligations.PunpkAgreesWithTheGets := by
  intro off num s hrun hnum hin
  have hsb (i : Fin 16) (hi : i.val < 3) : (stringField s (off + 1) 3)[i] = bufByte s (off + 1 + i.val) := by
    rw [stringField_getElem, if_pos hi]
  refine ⟨_, _, _, _, _, exec_punpk_of_inside hrun hnum hin,
    exec_of_inside (i := .getu8 off) hrun rfl (by dsimp only [touched]; omega),
    exec_getstr_of_inside (len := 3) hrun (by decide) (by omega),
    exec_of_inside (i := .getu32be (off + 4)) hrun rfl (by dsimp only [touched]; omega),
    exec_of_inside (i := .getu32be (off + 8)) hrun rfl hin, (zeroExtend_extractLsb' _).symm, ?_,
    sectorBytes_toNat _, sectorBytes_toNat _, rfl, rfl, rfl⟩
  change read24 s (off + 1) =
    (stringField s (off + 1) 3)[(0 : Fin 16)] ++ (stringField s (off + 1) 3)[(1 : Fin 16)] ++
      (stringField s (off + 1) 3)[(2 : Fin 16)]
  rw [hsb 0 (by decide), hsb 1 (by decide), hsb 2 (by decide)]
  rfl

/-- Settles O51: `PX` says whether the type is XGM, and the start cancels. -/
theorem hostExtentIsTheLength : Obligations.HostExtentIsTheLength := by
  intro off num xgm base owner s t hrun hexec hretired
  obtain rfl := eq_unpackSlot_of_retires hrun hexec hretired
  have hextent : absoluteEnd (retire (unpackSlot off num s)) owner -
      absoluteStart (retire (unpackSlot off num s)) owner = big32 s (off + 8) * 512 :=
    (Nat.add_sub_cancel_left _ _).trans (unpackSlot_plen_toNat off num s)
  exact ⟨if_congr (flagPX_iff _) rfl rfl, congrArg (owner + ·) (unpackSlot_pstart_toNat off num s), hextent,
    hextent ▸ Nat.mul_mod_left _ _⟩

end Sys2Proof.Proofs.Partition
end

section
/-! PROOFS of the two ends of a run (00_scope.md R19): the position a run would end at if all its pending commands
retired drops by one with every command that faults or is passed over, and never rises again. -/

namespace Sys2Proof.Proofs.RunEnds

open Sys2Proof Sys2Proof.Machine Sys2Proof.Safety Sys2Proof.Proofs.Updates Sys2Proof.Proofs.StepFamily

/-! ## Runs -/

theorem runFor_add (m n : Nat) (s : State) : runFor (m + n) s = runFor n (runFor m s) := by
  induction m generalizing s with
  | zero => rw [Nat.zero_add, runFor_zero]
  | succ m ih =>
    obtain ⟨t, hstep⟩ := everyStepCompletes s
    rw [Nat.succ_add, runFor_next _ hstep, runFor_next _ hstep, ih]

theorem makeMove_moves {m : HostMove} {s t : State} (hmake : makeMove m s = .next t) : t.moves = s.moves := by
  cases m with
  | issue w =>
    obtain ⟨-, rfl⟩ | ⟨c, -, -, rfl⟩ | ⟨i, -, -, -, rfl⟩ := issueWord_inv hmake
    · rfl
    · rfl
    · exact retired_moves i s
  | readReg | readBuf | writeBuf | reset =>
    cases hmake
    rfl

theorem step_moves {s t : State} (hstep : step s = .next t) : t.moves = s.moves.tail := by
  obtain ⟨hnil, rfl⟩ | ⟨m, rest, hcons, hmake⟩ := step_inv hstep
  · simp [hnil]
  · rw [makeMove_moves hmake, hcons, List.tail_cons]

theorem runFor_moves (n : Nat) (s : State) : (runFor n s).moves = s.moves.drop n := by
  induction n generalizing s with
  | zero => rfl
  | succ n ih =>
    obtain ⟨t, hstep⟩ := everyStepCompletes s
    rw [runFor_next n hstep, ih, step_moves hstep, List.drop_tail]

theorem afterRun_moves (s : State) : (afterRun s).moves = [] := by
  rw [afterRun, runFor_moves, List.drop_length]

/-- With all moves made the run stays where it is. -/
theorem runFor_eq_afterRun {n : Nat} {s : State} (h : s.moves.length ≤ n) : runFor n s = afterRun s := by
  obtain ⟨m, rfl⟩ := Nat.exists_eq_add_of_le h
  rw [runFor_add]
  exact runFor_idle m _ (afterRun_moves s)

/-! ## The position due -/

/-- The host's position if all its pending commands retire. -/
def due (s : State) : Nat := s.k + (program s).length

/-- Only a command can halt BAC. -/
theorem makeMove_running {m : HostMove} {s t : State} (hother : ∀ w, m ≠ .issue w) (hmake : makeMove m s = .next t)
    (hrun : s.status.f = false) : t.status.f = false := by
  cases m with
  | issue w => exact absurd rfl (hother w)
  | readReg | readBuf | writeBuf =>
    cases hmake
    exact hrun
  | reset =>
    cases hmake
    rfl

/-- A step loses no command and does not halt BAC, or it loses one command, BAC being halted before or after it. -/
theorem due_step {s t : State} (hstep : step s = .next t) :
    (due t = due s ∧ (s.status.f = false → t.status.f = false)) ∨
      (due t + 1 = due s ∧ (s.status.f = true ∨ t.status.f = true)) := by
  obtain ⟨-, rfl⟩ | ⟨m, rest, hmoves, hmake⟩ := step_inv hstep
  · exact .inl ⟨rfl, id⟩
  · have hprogram : program t = program { s with moves := rest } := by rw [program, program, makeMove_moves hmake]
    by_cases hissue : ∃ w, m = .issue w
    · obtain ⟨w, rfl⟩ := hissue
      have hdue : due s = s.k + (program t).length + 1 := by
        rw [due, program_issue s w rest hmoves, ← hprogram, List.length_cons, add_assoc]
      obtain ⟨hhalt, rfl⟩ | ⟨c, -, -, rfl⟩ | ⟨i, -, -, -, rfl⟩ := issueWord_inv hmake
      · exact .inr ⟨hdue.symm, .inl hhalt⟩
      · exact .inr ⟨hdue.symm, .inr rfl⟩
      · refine .inl ⟨?_, fun hrun => (retired_f i _).trans hrun⟩
        rw [hdue, due, retired_k, Nat.add_right_comm]
    · have hother : ∀ w, m ≠ .issue w := fun w hw => hissue ⟨w, hw⟩
      refine .inl ⟨?_, makeMove_running (s := { s with moves := rest }) hother hmake⟩
      rw [due, due, program_other s m rest hmoves hother, hprogram, makeMove_k (.inl hother) hmake]

theorem due_runFor_le (n : Nat) (s : State) : due (runFor n s) ≤ due s := by
  induction n generalizing s with
  | zero => exact le_rfl
  | succ n ih =>
    obtain ⟨t, hstep⟩ := everyStepCompletes s
    rw [runFor_next n hstep]
    have hrest := ih t
    obtain ⟨hdue, -⟩ | ⟨hdue, -⟩ := due_step hstep <;> omega

/-- A run of a running BAC has lost no command exactly if it has met no halt. -/
theorem due_runFor_eq_iff {n : Nat} {s : State} (hrun : s.status.f = false) :
    due (runFor n s) = due s ↔ ∀ m ≤ n, (runFor m s).status.f = false := by
  induction n generalizing s with
  | zero => simp [hrun]
  | succ n ih =>
    obtain ⟨t, hstep⟩ := everyStepCompletes s
    rw [runFor_next n hstep]
    obtain ⟨hdue, hkeeps⟩ | ⟨hdue, hhalt⟩ := due_step hstep
    · rw [← hdue, ih (hkeeps hrun)]
      constructor
      · intro hall m hm
        cases m with
        | zero => exact hrun
        | succ m =>
          rw [runFor_next m hstep]
          exact hall m (Nat.le_of_succ_le_succ hm)
      · intro hall m hm
        rw [← runFor_next m hstep]
        exact hall (m + 1) (Nat.succ_le_succ hm)
    · have hle := due_runFor_le n t
      have hhalted : t.status.f = true := hhalt.resolve_left (by simp [hrun])
      refine iff_of_false (by omega) fun hall => ?_
      have hfirst := hall 1 (by omega)
      rw [runFor_next 0 hstep, runFor_zero, hhalted] at hfirst
      cases hfirst

/-! ## The two ends -/

theorem endsWell_iff {s : State} (hrun : s.status.f = false) :
    EndsWell s ↔ ∀ n, (runFor n s).status.f = false := by
  have hend : due (afterRun s) = (afterRun s).k := by
    rw [due, program, afterRun_moves]
    rfl
  have hdue : (afterRun s).k = s.k + (program s).length ↔ ∀ m ≤ s.moves.length, (runFor m s).status.f = false := by
    rw [← hend]
    exact due_runFor_eq_iff hrun
  rw [EndsWell, hdue]
  constructor
  · rintro ⟨hall, hlast⟩ n
    obtain hn | hn := Nat.le_total n s.moves.length
    · exact hall n hn
    · rw [runFor_eq_afterRun hn]
      exact hlast
  · exact fun hall => ⟨fun m _ => hall m, hall _⟩

/-- A run of a running BAC that is ever halted has a step that halts it. -/
theorem endsBadly_of_halted {s : State} (hrun : s.status.f = false) {n : Nat} (hhalt : (runFor n s).status.f = true) :
    EndsBadly s := by
  induction n with
  | zero => simp [hrun] at hhalt
  | succ n ih =>
    cases hbefore : (runFor n s).status.f with
    | false => exact ⟨n, hbefore, hhalt⟩
    | true => exact ih hbefore

/-- Settles O59: no command is lost exactly if no state of the run is halted, and the first halt is a step that
halts. -/
theorem runsEndWellIffNeverHalted : Obligations.RunsEndWellIffNeverHalted := by
  intro s hrun
  refine ⟨(endsWell_iff hrun).trans ⟨?_, fun hgood n => ?_⟩, endsWell_iff hrun, afterRun_moves s⟩
  · rintro hall ⟨n, -, hhalt⟩
    simp [hall (n + 1)] at hhalt
  · rw [← Bool.not_eq_true]
    exact fun hhalt => hgood (endsBadly_of_halted hrun hhalt)

end Sys2Proof.Proofs.RunEnds
end
